-- ==== Sys2Proof/Word.lean ====
section
/-! DEFINITION. The widths of the core's values (00_scope.md R7, R9, R11): bytes, 16-bit words,
register indices. Every value is unsigned. -/

namespace Sys2Proof

/-- One byte: a register V0..VF, a timer, a memory cell (10_state.md R20, R27, R28; 20_memory.md R60). -/
abbrev Byte := BitVec 8

/-- A 16-bit value: I, pc, a stack entry, an opcode (10_state.md R23, R24, R26; 30_encoding.md R80). -/
abbrev Word := BitVec 16

/-- A general register's index X or Y, 0 to 15 (30_encoding.md R83). -/
abbrev RegIdx := Fin 16

end Sys2Proof
end

