-- ==== Sys2Proof/Config.lean ====
section
/-! DEFINITION. The core's fixed constants (00_scope.md R7), its open parameters (R8) and the two
free values: what the RAND oracle draws and which key a KEY_SELECT draw takes. -/

namespace Sys2Proof

/-! ### Fixed constants (R7) -/

/-- MEM_SIZE: addresses 0x000 to 0xFFF. -/
abbrev memSize : Nat := 0x1000
/-- PROG_BASE: where the program image is loaded. -/
abbrev progBase : Nat := 0x200
/-- PROG_MAX: the longest program image, 0xFFF − 0x200 + 1 bytes. -/
abbrev progMax : Nat := 3584
/-- PC_RESET: the entry point. -/
abbrev pcReset : Word := 0x200
/-- FB_W. -/
abbrev fbWidth : Nat := 64
/-- FB_H. -/
abbrev fbHeight : Nat := 32

/-! ### Open parameters (R8) -/

/-- TIMER_COUPLING: what invokes the timer tick (60_exceptions.md R246). -/
inductive TimerCoupling where
  /-- Only the host's TICK ticks. The spec's default. -/
  | decoupled
  /-- Every CYCLE that raises no fault ticks once at its end. -/
  | coupled
  deriving DecidableEq, Repr

/-- KEY_SELECT: which pressed key FX0A records (45_keypad_timers.md R217). -/
inductive KeySelect where
  /-- The lowest-numbered pressed key. The spec's default. -/
  | lowest
  /-- A draw over the pressed keys: any of them. -/
  | draw
  deriving DecidableEq, Repr

/-- FONT: 16 glyphs of 5 bytes; glyph d's row r is the byte at address 5·d + r (20_memory.md R63). -/
abbrev Font := Vector (Vector Byte 5) 16

/-- The open parameters that are plain data. A machine's are fixed when it is built (10_state.md R34):
State holds them, so that a statement about every state is about every choice of them. -/
structure Params where
  /-- TIMER_COUPLING. -/
  coupling  : TimerCoupling
  /-- KEY_SELECT. -/
  keySelect : KeySelect
  /-- FONT. -/
  font      : Font
  deriving DecidableEq, Repr

/-- The default FONT, the conventional CHIP-8 hexadecimal digits (20_memory.md R64).
PRESUMED (log entry 6): the source gives no font byte; the spec takes these from general knowledge. -/
def defaultFont : Font :=
  #v[#v[0xF0, 0x90, 0x90, 0x90, 0xF0], #v[0x20, 0x60, 0x20, 0x20, 0x70],
     #v[0xF0, 0x10, 0xF0, 0x80, 0xF0], #v[0xF0, 0x10, 0xF0, 0x10, 0xF0],
     #v[0x90, 0x90, 0xF0, 0x10, 0x10], #v[0xF0, 0x80, 0xF0, 0x10, 0xF0],
     #v[0xF0, 0x80, 0xF0, 0x90, 0xF0], #v[0xF0, 0x10, 0x20, 0x40, 0x40],
     #v[0xF0, 0x90, 0xF0, 0x90, 0xF0], #v[0xF0, 0x90, 0xF0, 0x10, 0xF0],
     #v[0xF0, 0x90, 0xF0, 0x90, 0x90], #v[0xE0, 0x90, 0xE0, 0x90, 0xE0],
     #v[0xF0, 0x80, 0x80, 0x80, 0xF0], #v[0xE0, 0x90, 0x90, 0x90, 0xE0],
     #v[0xF0, 0x80, 0xF0, 0x80, 0xF0], #v[0xF0, 0x80, 0xF0, 0x80, 0x80]]

/-- The defaults of R8 (log entry 3). -/
def Params.default : Params :=
  { coupling := .decoupled, keySelect := .lowest, font := defaultFont }

/-! ### Free values: no body, so no proof can see them -/

/-- The byte the RAND oracle gives on its k-th draw (R8; 42_alu.md R152, "an unconstrained draw").
Log entry 4. -/
opaque Config.rand : Nat → Byte

/-- What a KEY_SELECT draw takes on its k-th draw, reduced to a position among the pressed keys where it
is used (45_keypad_timers.md R217). Log entry 5. -/
opaque Config.keyChoice : Nat → Nat

end Sys2Proof
end

