-- ==== Sys2Proof/Syntax.lean ====
section
/-! DEFINITION. The 34 instructions, one constructor per row of spec/opcode_table.json in the table's order
(30_encoding.md R85). Operands are the fields of R81 and R83: X and Y are register indices, NN a byte,
NNN a 12-bit address, N a count of sprite rows. -/

namespace Sys2Proof

/-- The instructions. Each docstring gives the pattern, the assembler form and the rule of its meaning. -/
inductive Instr where
  /-- `00E0` CLS, R190. -/
  | cls
  /-- `00EE` RET, R121. -/
  | ret
  /-- `1NNN` JP nnn, R122. -/
  | jp (nnn : BitVec 12)
  /-- `2NNN` CALL nnn, R123. -/
  | call (nnn : BitVec 12)
  /-- `3XNN` SE Vx, nn, R124. -/
  | seVxNn (x : RegIdx) (nn : Byte)
  /-- `4XNN` SNE Vx, nn, R125. -/
  | sneVxNn (x : RegIdx) (nn : Byte)
  /-- `5XY0` SE Vx, Vy, R126. -/
  | seVxVy (x y : RegIdx)
  /-- `6XNN` LD Vx, nn, R141. -/
  | ldVxNn (x : RegIdx) (nn : Byte)
  /-- `7XNN` ADD Vx, nn, R142. -/
  | addVxNn (x : RegIdx) (nn : Byte)
  /-- `8XY0` LD Vx, Vy, R143. -/
  | ldVxVy (x y : RegIdx)
  /-- `8XY1` OR Vx, Vy, R144. -/
  | orVxVy (x y : RegIdx)
  /-- `8XY2` AND Vx, Vy, R145. -/
  | andVxVy (x y : RegIdx)
  /-- `8XY3` XOR Vx, Vy, R146. -/
  | xorVxVy (x y : RegIdx)
  /-- `8XY4` ADD Vx, Vy, R147. -/
  | addVxVy (x y : RegIdx)
  /-- `8XY5` SUB Vx, Vy, R148. -/
  | subVxVy (x y : RegIdx)
  /-- `8XY6` SHR Vx, Vy, R149. The field Y is decoded and kept, and not used. -/
  | shrVxVy (x y : RegIdx)
  /-- `8XY7` SUBN Vx, Vy, R150. The destination is VY. -/
  | subnVxVy (x y : RegIdx)
  /-- `8XYE` SHL Vx, Vy, R151. The field Y is decoded and kept, and not used. -/
  | shlVxVy (x y : RegIdx)
  /-- `9XY0` SNE Vx, Vy, R127. -/
  | sneVxVy (x y : RegIdx)
  /-- `ANNN` LD I, nnn, R170. -/
  | ldINnn (nnn : BitVec 12)
  /-- `BNNN` JP V0, nnn, R128. -/
  | jpV0 (nnn : BitVec 12)
  /-- `CXNN` RND Vx, nn, R152. -/
  | rnd (x : RegIdx) (nn : Byte)
  /-- `DXYN` DRW Vx, Vy, n, R192. The count is a number; WellFormed holds it to 4 bits. -/
  | drw (x y : RegIdx) (n : Nat)
  /-- `EX9E` SKP Vx, R210. -/
  | skp (x : RegIdx)
  /-- `EXA1` SKNP Vx, R211. -/
  | sknp (x : RegIdx)
  /-- `FX07` LD Vx, DT, R212. -/
  | ldVxDt (x : RegIdx)
  /-- `FX0A` LD Vx, K, R213. -/
  | ldVxK (x : RegIdx)
  /-- `FX15` LD DT, Vx, R215. -/
  | ldDtVx (x : RegIdx)
  /-- `FX18` LD ST, Vx, R216. -/
  | ldStVx (x : RegIdx)
  /-- `FX1E` ADD I, Vx, R171. -/
  | addIVx (x : RegIdx)
  /-- `FX29` LD F, Vx, R172. -/
  | ldFVx (x : RegIdx)
  /-- `FX33` LD B, Vx, R173. -/
  | ldBVx (x : RegIdx)
  /-- `FX55` LD [I], Vx, R174. -/
  | ldMemVx (x : RegIdx)
  /-- `FX65` LD Vx, [I], R175. -/
  | ldVxMem (x : RegIdx)
  deriving DecidableEq, Repr

end Sys2Proof
end

