-- ==== Sys2Proof/WellFormed.lean ====
section
/-! DEFINITION. What the types of Syntax do not already hold: DRW's row count fits its 4-bit field
(30_encoding.md R83), and a program image fits the program region (20_memory.md R66). The other
operands (indices below 16, bytes, 12-bit addresses) cannot be out of range. -/

namespace Sys2Proof

/-- The operand bounds of R83 that Syntax leaves to a check: N is a 4-bit count, 0 to 15. -/
def Instr.wellFormed : Instr → Bool
  | .drw _ _ n => decide (n ≤ 15)
  | .cls | .ret | .jp _ | .call _ | .seVxNn _ _ | .sneVxNn _ _ | .seVxVy _ _ | .ldVxNn _ _ | .addVxNn _ _
  | .ldVxVy _ _ | .orVxVy _ _ | .andVxVy _ _ | .xorVxVy _ _ | .addVxVy _ _ | .subVxVy _ _ | .shrVxVy _ _
  | .subnVxVy _ _ | .shlVxVy _ _ | .sneVxVy _ _ | .ldINnn _ | .jpV0 _ | .rnd _ _ | .skp _ | .sknp _
  | .ldVxDt _ | .ldVxK _ | .ldDtVx _ | .ldStVx _ | .addIVx _ | .ldFVx _ | .ldBVx _ | .ldMemVx _
  | .ldVxMem _ => true

/-- A program image RESET accepts: at most 3584 bytes (20_memory.md R66; 70_reset_and_hazards.md R273). -/
def imageFits (image : List Byte) : Bool := decide (image.length ≤ progMax)

end Sys2Proof
end

