-- ==== Sys2Proof/Decode.lean ====
section
/-! DEFINITION. Decoding, by the opcode map of 30_encoding.md R85, and after it the encoder. -/

namespace Sys2Proof

/-! ### The fields of an opcode (30_encoding.md R81; 00_scope.md R9, R10) -/

/-- X = op[11:8]. -/
def fieldX (op : Word) : RegIdx := (op.extractLsb' 8 4).toFin
/-- Y = op[7:4]. -/
def fieldY (op : Word) : RegIdx := (op.extractLsb' 4 4).toFin
/-- N = op[3:0]. -/
def fieldN (op : Word) : Nat := (op.extractLsb' 0 4).toNat
/-- NN = op[7:0]. -/
def fieldNN (op : Word) : Byte := op.extractLsb' 0 8
/-- NNN = op[11:0]. -/
def fieldNNN (op : Word) : BitVec 12 := op.extractLsb' 0 12

/-! ### The opcode map (30_encoding.md R85) -/

/-- One row of the map: `op` is this row's instruction when `op & mask = code`. -/
structure OpcodeRow where
  /-- The row's id, its mnemonic in spec/opcode_table.json. -/
  mnemonic : String
  /-- The column "match". -/
  code     : Word
  /-- The column "mask". -/
  mask     : Word
  /-- The instruction, its operands cut from the opcode. -/
  build    : Word → Instr

/-- Rows with top nibble 0x0 to 0x7. -/
def opcodeRowsLow : List OpcodeRow :=
  [ ⟨"CLS",       0x00E0, 0xFFFF, fun _  => .cls⟩,
    ⟨"RET",       0x00EE, 0xFFFF, fun _  => .ret⟩,
    ⟨"JP",        0x1000, 0xF000, fun op => .jp (fieldNNN op)⟩,
    ⟨"CALL",      0x2000, 0xF000, fun op => .call (fieldNNN op)⟩,
    ⟨"SE_VX_NN",  0x3000, 0xF000, fun op => .seVxNn (fieldX op) (fieldNN op)⟩,
    ⟨"SNE_VX_NN", 0x4000, 0xF000, fun op => .sneVxNn (fieldX op) (fieldNN op)⟩,
    ⟨"SE_VX_VY",  0x5000, 0xF00F, fun op => .seVxVy (fieldX op) (fieldY op)⟩,
    ⟨"LD_VX_NN",  0x6000, 0xF000, fun op => .ldVxNn (fieldX op) (fieldNN op)⟩,
    ⟨"ADD_VX_NN", 0x7000, 0xF000, fun op => .addVxNn (fieldX op) (fieldNN op)⟩ ]

/-- Rows with top nibble 0x8 to 0xD. -/
def opcodeRowsMiddle : List OpcodeRow :=
  [ ⟨"LD_VX_VY",  0x8000, 0xF00F, fun op => .ldVxVy (fieldX op) (fieldY op)⟩,
    ⟨"OR",        0x8001, 0xF00F, fun op => .orVxVy (fieldX op) (fieldY op)⟩,
    ⟨"AND",       0x8002, 0xF00F, fun op => .andVxVy (fieldX op) (fieldY op)⟩,
    ⟨"XOR",       0x8003, 0xF00F, fun op => .xorVxVy (fieldX op) (fieldY op)⟩,
    ⟨"ADD_VX_VY", 0x8004, 0xF00F, fun op => .addVxVy (fieldX op) (fieldY op)⟩,
    ⟨"SUB",       0x8005, 0xF00F, fun op => .subVxVy (fieldX op) (fieldY op)⟩,
    ⟨"SHR",       0x8006, 0xF00F, fun op => .shrVxVy (fieldX op) (fieldY op)⟩,
    ⟨"SUBN",      0x8007, 0xF00F, fun op => .subnVxVy (fieldX op) (fieldY op)⟩,
    ⟨"SHL",       0x800E, 0xF00F, fun op => .shlVxVy (fieldX op) (fieldY op)⟩,
    ⟨"SNE_VX_VY", 0x9000, 0xF00F, fun op => .sneVxVy (fieldX op) (fieldY op)⟩,
    ⟨"LD_I_NNN",  0xA000, 0xF000, fun op => .ldINnn (fieldNNN op)⟩,
    ⟨"JP_V0",     0xB000, 0xF000, fun op => .jpV0 (fieldNNN op)⟩,
    ⟨"RND",       0xC000, 0xF000, fun op => .rnd (fieldX op) (fieldNN op)⟩,
    ⟨"DRW",       0xD000, 0xF000, fun op => .drw (fieldX op) (fieldY op) (fieldN op)⟩ ]

/-- Rows with top nibble 0xE and 0xF. -/
def opcodeRowsHigh : List OpcodeRow :=
  [ ⟨"SKP",       0xE09E, 0xF0FF, fun op => .skp (fieldX op)⟩,
    ⟨"SKNP",      0xE0A1, 0xF0FF, fun op => .sknp (fieldX op)⟩,
    ⟨"LD_VX_DT",  0xF007, 0xF0FF, fun op => .ldVxDt (fieldX op)⟩,
    ⟨"LD_VX_K",   0xF00A, 0xF0FF, fun op => .ldVxK (fieldX op)⟩,
    ⟨"LD_DT_VX",  0xF015, 0xF0FF, fun op => .ldDtVx (fieldX op)⟩,
    ⟨"LD_ST_VX",  0xF018, 0xF0FF, fun op => .ldStVx (fieldX op)⟩,
    ⟨"ADD_I_VX",  0xF01E, 0xF0FF, fun op => .addIVx (fieldX op)⟩,
    ⟨"LD_F_VX",   0xF029, 0xF0FF, fun op => .ldFVx (fieldX op)⟩,
    ⟨"LD_B_VX",   0xF033, 0xF0FF, fun op => .ldBVx (fieldX op)⟩,
    ⟨"LD_MEM_VX", 0xF055, 0xF0FF, fun op => .ldMemVx (fieldX op)⟩,
    ⟨"LD_VX_MEM", 0xF065, 0xF0FF, fun op => .ldVxMem (fieldX op)⟩ ]

/-- The opcode map: 34 rows, in the order of R85. -/
def opcodeTable : List OpcodeRow := opcodeRowsLow ++ (opcodeRowsMiddle ++ opcodeRowsHigh)

/-- `op` matches the row (R85, R103). -/
def OpcodeRow.accepts (r : OpcodeRow) (op : Word) : Bool := op &&& r.mask == r.code

/-! ### Decoding (40_cycle.md R103) -/

/-- Why bytes are no instruction. -/
inductive DecodeError where
  /-- No row of R85 matches: an unknown opcode (30_encoding.md R86). -/
  | unknownOpcode (op : Word)
  /-- Fewer than the two bytes of an opcode (30_encoding.md R80). The core's own fetch always gives two. -/
  | truncated (length : Nat)
  deriving DecidableEq, Repr

/-- `Decode(op)` of R103: the instruction of the row that matches, or Unknown. It depends on `op` alone. -/
def decodeWord (op : Word) : Except DecodeError Instr :=
  match opcodeTable.find? (fun r => r.accepts op) with
  | some r => .ok (r.build op)
  | none => .error (.unknownOpcode op)

/-- The opcode of two bytes, the first the most significant (20_memory.md R69). -/
def opcodeOfBytes (hi lo : Byte) : Word := hi ++ lo

/-- Decode the first instruction of any bytes, and give the bytes after it; it consumes exactly 2 (R80). -/
def decodeBytes : List Byte → Except DecodeError (Instr × List Byte)
  | hi :: lo :: rest =>
    match decodeWord (opcodeOfBytes hi lo) with
    | .ok i => .ok (i, rest)
    | .error e => .error e
  | bytes => .error (.truncated bytes.length)

/-! ### The encoder (30_encoding.md R82, R85) -/

/-- A register index as its 4-bit field. -/
def regField (x : RegIdx) : BitVec 4 := BitVec.ofFin x

/-- Format A: top nibble, NNN. -/
def formatA (top : BitVec 4) (nnn : BitVec 12) : Word := top ++ nnn
/-- Format XNN: top nibble, X, NN. -/
def formatXNN (top : BitVec 4) (x : RegIdx) (nn : Byte) : Word := top ++ regField x ++ nn
/-- Format XY: top nibble, X, Y, function nibble. -/
def formatXY (top : BitVec 4) (x y : RegIdx) (fn : BitVec 4) : Word := top ++ regField x ++ regField y ++ fn
/-- Format XYN: top nibble, X, Y, N. -/
def formatXYN (top : BitVec 4) (x y : RegIdx) (n : Nat) : Word :=
  top ++ regField x ++ regField y ++ BitVec.ofNat 4 n
/-- Format X: top nibble, X, function byte. -/
def formatX (top : BitVec 4) (x : RegIdx) (fn : Byte) : Word := top ++ regField x ++ fn

/-- The opcode of an instruction, bit 15 first as in the encoding strings of the table. -/
def encode : Instr → Word
  | .cls => 0x00E0
  | .ret => 0x00EE
  | .jp nnn => formatA 0x1 nnn
  | .call nnn => formatA 0x2 nnn
  | .seVxNn x nn => formatXNN 0x3 x nn
  | .sneVxNn x nn => formatXNN 0x4 x nn
  | .seVxVy x y => formatXY 0x5 x y 0x0
  | .ldVxNn x nn => formatXNN 0x6 x nn
  | .addVxNn x nn => formatXNN 0x7 x nn
  | .ldVxVy x y => formatXY 0x8 x y 0x0
  | .orVxVy x y => formatXY 0x8 x y 0x1
  | .andVxVy x y => formatXY 0x8 x y 0x2
  | .xorVxVy x y => formatXY 0x8 x y 0x3
  | .addVxVy x y => formatXY 0x8 x y 0x4
  | .subVxVy x y => formatXY 0x8 x y 0x5
  | .shrVxVy x y => formatXY 0x8 x y 0x6
  | .subnVxVy x y => formatXY 0x8 x y 0x7
  | .shlVxVy x y => formatXY 0x8 x y 0xE
  | .sneVxVy x y => formatXY 0x9 x y 0x0
  | .ldINnn nnn => formatA 0xA nnn
  | .jpV0 nnn => formatA 0xB nnn
  | .rnd x nn => formatXNN 0xC x nn
  | .drw x y n => formatXYN 0xD x y n
  | .skp x => formatX 0xE x 0x9E
  | .sknp x => formatX 0xE x 0xA1
  | .ldVxDt x => formatX 0xF x 0x07
  | .ldVxK x => formatX 0xF x 0x0A
  | .ldDtVx x => formatX 0xF x 0x15
  | .ldStVx x => formatX 0xF x 0x18
  | .addIVx x => formatX 0xF x 0x1E
  | .ldFVx x => formatX 0xF x 0x29
  | .ldBVx x => formatX 0xF x 0x33
  | .ldMemVx x => formatX 0xF x 0x55
  | .ldVxMem x => formatX 0xF x 0x65

/-- The two bytes of an opcode as memory holds them, most significant first (20_memory.md R69). -/
def bytesOfOpcode (op : Word) : List Byte := [op.extractLsb' 8 8, op.extractLsb' 0 8]

/-- An instruction's bytes in a program image. -/
def encodeBytes (i : Instr) : List Byte := bytesOfOpcode (encode i)

/-- The opcode of `w`'s low `nbits` bits; the bits above them are 0. Every row of the table has 16. -/
def tableOpcode (nbits w : Nat) : Word := BitVec.ofNat 16 (w % 2 ^ nbits)

/-- The instruction the decoder reads from an opcode-table word, laid out in bytes as memory holds it. -/
def decodeTableWord (nbits w : Nat) : Option Instr :=
  match decodeBytes (bytesOfOpcode (tableOpcode nbits w)) with
  | .ok (i, _) => some i
  | .error _ => none

end Sys2Proof
end

