-- ==== Sys2Proof/Machine/State.lean ====
section
/-! DEFINITION. Everything the spec gives the core (10_state.md R20 to R37), its parameters (00_scope.md R8),
and the outside world as plain data: the host's operations still to come, the events emitted and the
replies given (60_exceptions.md R250, R251). -/

namespace Sys2Proof
namespace Machine

/-- The core state (10_state.md R32). -/
inductive CoreState where
  /-- The next CYCLE fetches an instruction. -/
  | fetching
  /-- An FX0A with register index x waits for a key, and pc still addresses it. -/
  | awaitingKey (x : RegIdx)
  /-- A stack or addressing fault has been latched: CYCLE and TICK do nothing. -/
  | faulted
  deriving DecidableEq, Repr

/-- The fault codes by name (60_exceptions.md R231); their numbers are in Machine/Ops.lean. -/
inductive FaultCode where
  /-- 0x0 NONE: no fault latched. -/
  | noFault
  /-- 0x1 STACK_OVERFLOW. -/
  | stackOverflow
  /-- 0x2 STACK_UNDERFLOW. -/
  | stackUnderflow
  /-- 0x3 ADDR_FETCH. -/
  | addrFetch
  /-- 0x4 ADDR_MEM. -/
  | addrMem
  /-- 0x5 ADDR_FB. -/
  | addrFb
  /-- 0x6 ADDR_KEY. -/
  | addrKey
  /-- 0x7 UNKNOWN_OPCODE: only in a DecodeReport, never latched (R235). -/
  | unknownOpcode
  deriving DecidableEq, Repr

/-- The fault latch: the registers fault_code, fault_pc, fault_opcode and fault_info (10_state.md R33). -/
structure FaultLatch where
  /-- fault_code. -/
  code   : FaultCode
  /-- fault_pc: pc of the faulting instruction. -/
  pc     : Word
  /-- fault_opcode: the faulting opcode, 0 for a fetch fault. -/
  opcode : Word
  /-- fault_info: per-code detail (60_exceptions.md R232). -/
  info   : Word
  deriving DecidableEq, Repr

/-- The framebuffer: `fb[y][x]`, 32 rows of 64 pixels (10_state.md R29). -/
abbrev Framebuffer := Vector (Vector Bool 64) 32

/-- The output events (60_exceptions.md R250). -/
inductive Event where
  /-- An unknown opcode was executed as a no-op (40_cycle.md R105). -/
  | decodeReport (pc op : Word)
  /-- A fault was latched (R233). -/
  | fault (code : FaultCode) (pc op info : Word)
  /-- The sound timer counted down from 1 (R243, R245). One-shot: it has no data and no duration, and no event ends a tone
  (R249; 70_reset_and_hazards.md R283). -/
  | toneRequest
  deriving DecidableEq, Repr

/-- The elements of the state (10_state.md R37) that READ gives where the host asks for them (60_exceptions.md R251);
the other elements it always gives. -/
inductive StateElement where
  /-- `V[x]`. -/
  | v (x : RegIdx)
  /-- I. -/
  | i
  /-- pc. -/
  | pc
  /-- SP. -/
  | sp
  /-- `STACK[k]`. -/
  | stack (k : Fin 16)
  /-- DT. -/
  | dt
  /-- ST. -/
  | st
  /-- `KEY[k]`. -/
  | key (k : Fin 16)
  /-- The byte of memory at an address. -/
  | mem (a : BitVec 12)
  deriving DecidableEq, Repr

/-- READ's answer: FB, `redraw`, the fault latch and `state`, and what else the host asked for (60_exceptions.md R251). -/
structure ReadOut where
  /-- FB. -/
  fb     : Framebuffer
  /-- `redraw`. -/
  redraw : Bool
  /-- `state`. -/
  core   : CoreState
  /-- The fault latch. -/
  latch  : FaultLatch
  /-- Each element asked for, in the order asked, with its value as an unsigned number. -/
  asked  : List (StateElement × Nat)
  deriving DecidableEq, Repr

/-- The host's operations (60_exceptions.md R251). -/
inductive HostOp where
  /-- One fetch-decode-execute step. -/
  | cycle
  /-- One timer tick. -/
  | tick
  /-- The 16 key bits, all written at once. -/
  | setKeys (keys : Vector Bool 16)
  /-- Look at the state, and at these elements of it besides those READ always gives. -/
  | read (asked : List StateElement)
  /-- Clear the redraw flag. -/
  | ackRedraw
  /-- Reset, and load a program image. -/
  | reset (image : List Byte)
  deriving DecidableEq, Repr

/-- What the host gets back besides events (60_exceptions.md R251; 70_reset_and_hazards.md R273). -/
inductive HostReply where
  /-- READ's answer. -/
  | readOut (r : ReadOut)
  /-- RESET succeeded. -/
  | resetDone
  /-- `LoadFault(L)`: RESET rejected an image of L bytes. -/
  | loadFault (length : Nat)
  deriving DecidableEq, Repr

/-- Memory, as the list of the bytes that differ from what an unlisted address reads as, addresses rising
(`Memory.wf`, in Machine/Ops.lean, is that form; log entry 11). -/
abbrev Memory := List Host.Cell

/-- The machine's state: the core's (10_state.md R37), its parameters, and the model's own fields. -/
structure State where
  /-- V0 to VF; `v[15]` is VF, the flag register (R20, R21). -/
  v            : Vector Byte 16
  /-- I, the index register (R23). -/
  i            : Word
  /-- The program counter (R24). -/
  pc           : Word
  /-- SP, the number of return addresses on the stack, 0 to 16 (R25). -/
  sp           : Fin 17
  /-- STACK[0] to STACK[15] (R26). -/
  stack        : Vector Word 16
  /-- The delay timer (R27). -/
  dt           : Byte
  /-- The sound timer (R28). -/
  st           : Byte
  /-- FB (R29). -/
  fb           : Framebuffer
  /-- The redraw-needed flag (R30). -/
  redraw       : Bool
  /-- KEY[0] to KEY[15], true when pressed (R31). -/
  key          : Vector Bool 16
  /-- The core state (R32). -/
  core         : CoreState
  /-- The fault latch (R33). -/
  latch        : FaultLatch
  /-- Memory[0x000] to Memory[0xFFF] (20_memory.md R60). -/
  mem          : Memory
  /-- The open parameters, fixed for a machine: no step changes them (00_scope.md R8; log entry 3). -/
  params       : Params
  /-- The model's own: how many bytes RAND has given (log entry 4). -/
  randDraws    : Nat
  /-- The model's own: how many draws KEY_SELECT has made (log entry 5). -/
  keyDraws     : Nat
  /-- The model's own: the host's operations still to come; where there is none, the host issues CYCLE
  (log entry 1). -/
  hostOps      : List HostOp
  /-- The model's own: the events emitted so far, oldest first (log entry 2). -/
  events       : List Event
  /-- The model's own: the host's answers so far, oldest first (log entry 2). -/
  replies      : List HostReply
  /-- The model's own: the last RESET was a load fault (70_reset_and_hazards.md R273; log entry 9). -/
  loadRejected : Bool
  deriving DecidableEq, Repr

/-- The model's faults: none. Every stack and addressing fault of the spec is a NEXT state, in which the latch is
written and the core is Faulted (60_exceptions.md R233), so no operation of the core ends a run of the model
with a fault (log entry 10). Safe: nothing is claimed by it. -/
inductive Fault where
  deriving DecidableEq, Repr

/-- The model's refusals. -/
inductive Refusal where
  /-- Raised by an arm of `exec` whose instruction has no meaning yet. Safe: the run stops. No arm raises it. -/
  | notModelled (mnemonic : String)
  /-- Raised by CYCLE and TICK after a RESET that was a load fault, until a RESET succeeds: the host must not issue
  them and the spec lets a model refuse them (70_reset_and_hazards.md R273; 93_implementation_defined.md U15;
  log entry 9). Safe: the run stops. -/
  | afterLoadFault
  deriving DecidableEq, Repr

/-- The machine right after a RESET with an empty image and the default parameters (70_reset_and_hazards.md R270;
10_state.md R37; log entries 16 and 17). -/
def State.reset : State :=
  { v            := Vector.replicate 16 0
    i            := 0
    pc           := pcReset
    sp           := 0
    stack        := Vector.replicate 16 0
    dt           := 0
    st           := 0
    fb           := Vector.replicate 32 (Vector.replicate 64 false)
    redraw       := false
    key          := Vector.replicate 16 false
    core         := .fetching
    latch        := { code := .noFault, pc := 0, opcode := 0, info := 0 }
    mem          := []
    params       := Params.default
    randDraws    := 0
    keyDraws     := 0
    hostOps      := []
    events       := []
    replies      := []
    loadRejected := false }

end Machine
end Sys2Proof
end

