-- ==== Sys2Proof/Machine/Ops.lean ====
section
/-! DEFINITION. The named operations over memory, registers, the stack, the keypad and the program counter, and
the fault action. Everything the instructions share is here. -/

namespace Sys2Proof
namespace Machine

/-! ### Memory (20_memory.md R60 to R71) -/

/-- What an address reads as while no cell is listed for it: the reset contents, FONT at 0x000 to 0x04F and 0
above (R63 to R66). Glyph d's row r is at 5·d + r. -/
def unlisted (font : Font) (a : Nat) : Byte :=
  if h : a < 80 then (font[a / 5]'(by omega))[a % 5]'(by omega) else 0#8

/-- The byte listed for an address. -/
def Memory.lookup : Memory → Nat → Option Byte
  | [], _ => none
  | (k, b) :: rest, a => if a = k then some b else Memory.lookup rest a

/-- MemRead(a, 1) of 00_scope.md R12. -/
def Memory.read (font : Font) (m : Memory) (a : Nat) : Byte := (m.lookup a).getD (unlisted font a)

/-- List a byte, keeping the addresses rising. -/
def Memory.insert (a : Nat) (b : Byte) : Memory → Memory
  | [] => [(a, b)]
  | (k, c) :: rest =>
    if a < k then (a, b) :: (k, c) :: rest
    else if a = k then (a, b) :: rest
    else (k, c) :: Memory.insert a b rest

/-- List no byte for an address. -/
def Memory.erase (a : Nat) (m : Memory) : Memory := m.filter fun c => c.1 != a

/-- MemWrite(a, 1, b) of 00_scope.md R12: a byte that an unlisted address reads as is not listed. -/
def Memory.write (font : Font) (m : Memory) (a : Nat) (b : Byte) : Memory :=
  if b = unlisted font a then m.erase a else m.insert a b

/-- Single-byte writes at ascending addresses (43_index_memory.md R173, R174; 70_reset_and_hazards.md R270). -/
def Memory.store (font : Font) (m : Memory) (a : Nat) : List Byte → Memory
  | [] => m
  | b :: bytes => Memory.store font (m.write font a b) (a + 1) bytes

/-- Single-byte reads of `n` ascending addresses. -/
def Memory.load (font : Font) (m : Memory) (a n : Nat) : List Byte :=
  (List.range n).map fun k => m.read font (a + k)

/-- The canonical form: addresses strictly rising and below 0x1000, no byte listed that the address would read
as anyway. -/
def Memory.wf (font : Font) : Memory → Bool
  | [] => true
  | (a, b) :: rest =>
    decide (a < memSize) && (b != unlisted font a) && rest.all (fun c => decide (a < c.1)) && Memory.wf font rest

/-- The byte at an address. -/
def State.readByte (s : State) (a : Nat) : Byte := s.mem.read s.params.font a

/-- Bytes at ascending addresses. -/
def State.readBytes (s : State) (a n : Nat) : List Byte := s.mem.load s.params.font a n

/-- Store bytes at ascending addresses. -/
def State.storeBytes (s : State) (a : Nat) (bytes : List Byte) : State :=
  { s with mem := s.mem.store s.params.font a bytes }

/-! ### Registers (10_state.md R20, R21) -/

/-- `V[x]`. -/
def State.readV (s : State) (x : RegIdx) : Byte := s.v[x.val]

/-- `V[x] <- b`. No register is hardwired. -/
def State.writeV (s : State) (x : RegIdx) (b : Byte) : State := { s with v := s.v.set x.val b }

/-- VF, the flag register. -/
abbrev regF : RegIdx := 15

/-- The order of R140 (42_alu.md): the result register first, VF last. Where the result register is VF, the
flag stays. -/
def State.writeResultThenFlag (s : State) (dest : RegIdx) (result flag : Byte) : State :=
  (s.writeV dest result).writeV regF flag

/-- V0 to VX, the registers FX55 stores (43_index_memory.md R174). -/
def State.registersUpTo (s : State) (x : RegIdx) : List Byte := s.v.toList.take (x.val + 1)

/-- `V[k] <- MemRead(a + k, 1)` for k in 0 .. X (43_index_memory.md R175). -/
def State.loadRegistersUpTo (s : State) (x : RegIdx) (a : Nat) : State :=
  { s with v := Vector.ofFn fun k => if k.val ≤ x.val then s.readByte (a + k.val) else s.v[k.val] }

/-! ### The program counter (40_cycle.md R104) -/

/-- Class "next": pc + 2. -/
def State.advance (s : State) : State := { s with pc := s.pc + 2 }

/-- Class "skip": pc + 4 if the condition holds, else pc + 2 (41_flow.md R120). The skipped instruction is not
fetched. -/
def State.skipIf (s : State) (condition : Bool) : State :=
  { s with pc := if condition then s.pc + 4 else s.pc + 2 }

/-- Class "absolute": pc is set, and not checked until its fetch (41_flow.md R122). -/
def State.jump (s : State) (target : Word) : State := { s with pc := target }

/-- The two bytes at pc as an opcode, the high byte at pc (40_cycle.md R102; 20_memory.md R69). -/
def State.fetchOpcode (s : State) : Word :=
  opcodeOfBytes (s.readByte s.pc.toNat) (s.readByte (s.pc.toNat + 1))

/-- The fetch stays inside memory: pc + 1 ≤ 0xFFF (40_cycle.md R102). -/
def State.canFetch (s : State) : Bool := decide (s.pc.toNat + 1 ≤ 0xFFF)

/-! ### The return stack (10_state.md R25, R26) -/

/-- CALL's push, when the stack is not full: `STACK[SP] <- pc; SP <- SP + 1` (41_flow.md R123). -/
def State.pushPc (s : State) (h : s.sp.val < 16) : State :=
  { s with stack := s.stack.set s.sp.val s.pc, sp := ⟨s.sp.val + 1, by omega⟩ }

/-- RET's pop and return, when the stack is not empty: `SP <- SP - 1; pc <- STACK[SP] + 2` (41_flow.md R121).
The entry is not cleared (10_state.md R26). -/
def State.popReturn (s : State) : State :=
  { s with sp := ⟨s.sp.val - 1, by omega⟩, pc := s.stack[s.sp.val - 1] + 2 }

/-! ### Taking a fault (60_exceptions.md R231 to R239) -/

/-- The 4-bit number of a fault code (R231). -/
def FaultCode.number : FaultCode → BitVec 4
  | .noFault => 0x0
  | .stackOverflow => 0x1
  | .stackUnderflow => 0x2
  | .addrFetch => 0x3
  | .addrMem => 0x4
  | .addrFb => 0x5
  | .addrKey => 0x6
  | .unknownOpcode => 0x7

/-- The code an event carries (R235, R250). -/
def Event.code : Event → FaultCode
  | .decodeReport _ _ => .unknownOpcode
  | .fault code _ _ _ => code
  | .toneRequest => .noFault

/-- `emit` (00_scope.md R12). -/
def State.emit (s : State) (e : Event) : State := { s with events := s.events ++ [e] }

/-- `raise Fault(code, info)` in the CYCLE that fetched opcode `op` (R233): the latch, the core state and one Fault
event; pc and all else stay (R234). Control goes to the host, to no program address, and there is no return
from it but RESET (R238, R239). -/
def State.raiseFault (s : State) (code : FaultCode) (op info : Word) : State :=
  let opcode := if code = .addrFetch then 0x0000 else op
  { s with
    latch := { code := code, pc := s.pc, opcode := opcode, info := info }
    core := .faulted
    events := s.events ++ [.fault code s.pc opcode info] }

/-- An unknown opcode: one DecodeReport, pc + 2, nothing else (40_cycle.md R105). -/
def State.reportUnknown (s : State) (op : Word) : State := (s.emit (.decodeReport s.pc op)).advance

/-! ### The keypad (10_state.md R31; 45_keypad_timers.md R213 to R217) -/

/-- `KEY[k]`, for an index below 16. -/
def State.keyPressed (s : State) (k : Nat) : Bool := s.key.getD k false

/-- The set P of pressed keys, in rising order. -/
def State.pressedKeys (s : State) : List RegIdx := (List.finRange 16).filter fun k => s.key[k.val]

/-- `KEY_SELECT(P)` for the pressed keys `first :: others` in rising order (R217): the lowest, or a draw over them. -/
def State.selectKey (s : State) (first : RegIdx) (others : List RegIdx) : RegIdx :=
  match s.params.keySelect with
  | .lowest => first
  | .draw => (first :: others).getD (Config.keyChoice s.keyDraws % (others.length + 1)) first

/-- A draw uses up one free value. -/
def State.countKeyDraw (s : State) : State :=
  match s.params.keySelect with
  | .lowest => s
  | .draw => { s with keyDraws := s.keyDraws + 1 }

/-- Record the selected key in VX and advance (R213, R214). -/
def State.recordKey (s : State) (x first : RegIdx) (others : List RegIdx) : State :=
  ((s.writeV x (BitVec.ofNat 8 (s.selectKey first others).val)).countKeyDraw).advance

/-- PollKey(x): a CYCLE in state AwaitingKey(x) (R214). -/
def State.pollKey (s : State) (x : RegIdx) : State :=
  match s.pressedKeys with
  | [] => s
  | first :: others => { s.recordKey x first others with core := .fetching }

/-! ### The timers (60_exceptions.md R242 to R246) -/

/-- `Tick()` (R243). It counts and keeps no time: the host chooses the rate, and the one-shot ToneRequest is all the sound
the core asks for (R245; 70_reset_and_hazards.md R283). -/
def State.tick (s : State) : State :=
  if s.core = .faulted then s
  else
    { s with
      dt := if 0 < s.dt.toNat then s.dt - 1 else s.dt
      st := if 0 < s.st.toNat then s.st - 1 else s.st
      events := if s.st = 1 then s.events ++ [.toneRequest] else s.events }

/-- The tick at the end of a CYCLE, in coupled mode (40_cycle.md R106). A CYCLE that raised a fault has left the core
Faulted, where Tick() does nothing. -/
def State.cycleTick (s : State) : State :=
  match s.params.coupling with
  | .decoupled => s
  | .coupled => s.tick

/-! ### Random bytes (42_alu.md R152) -/

/-- The byte RAND gives next. -/
def State.randByte (s : State) : Byte := Config.rand s.randDraws

/-- A draw uses up one free value. -/
def State.countRandDraw (s : State) : State := { s with randDraws := s.randDraws + 1 }

end Machine
end Sys2Proof
end

