-- ==== Sys2Proof/Machine/Operands.lean ====
section
/-! DEFINITION. The operand forms (30_encoding.md R83): immediates, key indices, glyph addresses, sprite rows,
decimal digits, and the range check on an access through I (20_memory.md R62). -/

namespace Sys2Proof
namespace Machine

/-- `zext_16(NNN)`. -/
def addressOperand (nnn : BitVec 12) : Word := nnn.zeroExtend 16

/-- `zext_16` of a byte, for a sum or a fault detail. -/
def zext16 (b : Byte) : Word := b.zeroExtend 16

/-- NNN + V0, exact: at most 0x10FE (41_flow.md R128). -/
def offsetAddress (nnn : BitVec 12) (v0 : Byte) : Word := addressOperand nnn + zext16 v0

/-- The glyph address 5·V[X], not masked to a nibble: at most 0x4FB (43_index_memory.md R172). -/
def glyphAddress (v : Byte) : Word := BitVec.ofNat 16 (5 * v.toNat)

/-- `count` bytes from `base` lie inside memory, in exact integers; no bytes always do (20_memory.md R62). -/
def rangeFits (base count : Nat) : Bool := decide (count = 0) || decide (base + count - 1 ≤ 0xFFF)

/-- Hundreds, tens and ones (43_index_memory.md R173). -/
def decimalDigits (v : Byte) : List Byte :=
  [BitVec.ofNat 8 (v.toNat / 100), BitVec.ofNat 8 (v.toNat / 10 % 10), BitVec.ofNat 8 (v.toNat % 10)]

/-- A key index names a key: it is at most 0xF (45_keypad_timers.md R210). -/
def isKeyIndex (k : Byte) : Bool := decide (k.toNat ≤ 0xF)

/-- Both coordinates in one word, `(vx << 8) | vy`, the detail of ADDR_FB (60_exceptions.md R232). -/
def spriteOrigin (vx vy : Byte) : Word := vx ++ vy

/-! ### Sprites (44_display.md R191) -/

/-- The bit of a sprite row at column c, 0 to 7: bit 7 is the leftmost (log entry 7). -/
def rowBit (row : Byte) (c : Nat) : Bool := row.getLsbD (7 - c)

/-- The positions (column, row) of a sprite's set bits, row by row from the top, left to right. -/
def setBits (rows : List Byte) (vx vy : Nat) : List (Nat × Nat) :=
  rows.zipIdx.flatMap fun (row, r) => ((List.range 8).filter (rowBit row)).map fun c => (vx + c, vy + r)

/-- A position lies on the 64 × 32 framebuffer. -/
def onScreen (p : Nat × Nat) : Bool := decide (p.1 ≤ 63) && decide (p.2 ≤ 31)

/-- `FB[y][x]`; false off the screen, where no instruction looks. -/
def pixel (fb : Framebuffer) (x y : Nat) : Bool :=
  if h : x < fbWidth ∧ y < fbHeight then (fb[y]'h.2)[x]'h.1 else false

/-- XOR a set of distinct positions onto the framebuffer. -/
def xorPixels (fb : Framebuffer) (positions : List (Nat × Nat)) : Framebuffer :=
  Vector.ofFn fun y => Vector.ofFn fun x => fb[y.val][x.val] ^^ positions.contains (x.val, y.val)

end Machine
end Sys2Proof
end

