-- ==== Sys2Proof/Machine/Flags.lean ====
section
/-! DEFINITION. Every computation of VF as a flag (42_alu.md R147 to R151, R153; 44_display.md R192), and the results
that go with them. All arithmetic is unsigned: exact on integers, then reduced modulo 256. -/

namespace Sys2Proof
namespace Machine

/-- A flag as VF holds it: 0 or 1. -/
def flagByte (b : Bool) : Byte := if b then 1 else 0

/-- (a + b) mod 256. -/
def sumByte (a b : Byte) : Byte := BitVec.ofNat 8 (a.toNat + b.toNat)

/-- Carry: 1 iff the exact sum exceeds 255 (R147). -/
def carryFlag (a b : Byte) : Byte := flagByte (decide (a.toNat + b.toNat > 255))

/-- (minuend − subtrahend) mod 256 (R148, R150). -/
def differenceByte (minuend subtrahend : Byte) : Byte :=
  BitVec.ofInt 8 ((minuend.toNat : Int) - (subtrahend.toNat : Int))

/-- Not-borrow: 0 iff the subtrahend exceeds the minuend (R148, R150). -/
def notBorrowFlag (minuend subtrahend : Byte) : Byte := flagByte (!decide (subtrahend.toNat > minuend.toNat))

/-- v >> 1 (R149). -/
def shiftRightByte (v : Byte) : Byte := v >>> 1

/-- The bit a right shift moves out: bit 0 (R149). -/
def shiftedOutRight (v : Byte) : Byte := flagByte (v.getLsbD 0)

/-- (v << 1) mod 256 (R151). -/
def shiftLeftByte (v : Byte) : Byte := BitVec.ofNat 8 (v.toNat <<< 1)

/-- The bit a left shift moves out: bit 7 (R151). -/
def shiftedOutLeft (v : Byte) : Byte := flagByte (v.getLsbD 7)

/-- Collision: 1 iff some position of the sprite's set bits holds a set pixel before the draw (R192). -/
def collisionFlag (fb : Framebuffer) (positions : List (Nat × Nat)) : Byte :=
  flagByte (positions.any fun p => pixel fb p.1 p.2)

end Machine
end Sys2Proof
end

