-- ==== Sys2Proof/Machine/Alu.lean ====
section
/-! DEFINITION. Register loads, arithmetic, logic, shifts and random: 6XNN, 7XNN, 8XY0 to 8XY7, 8XYE, CXNN
(42_alu.md R140 to R153). Operands are read from the state at the start of the instruction; a flag instruction
writes its result register, then VF (R140). -/

namespace Sys2Proof
namespace Machine

/-- LD Vx, nn (R141). -/
def execLdVxNn (x : RegIdx) (nn : Byte) (s : State) : Host.Outcome State Fault Refusal :=
  .next (s.writeV x nn).advance

/-- ADD Vx, nn (R142): no flag. -/
def execAddVxNn (x : RegIdx) (nn : Byte) (s : State) : Host.Outcome State Fault Refusal :=
  .next (s.writeV x (sumByte (s.readV x) nn)).advance

/-- LD Vx, Vy (R143). -/
def execLdVxVy (x y : RegIdx) (s : State) : Host.Outcome State Fault Refusal :=
  .next (s.writeV x (s.readV y)).advance

/-- OR Vx, Vy (R144): VF is not reset. -/
def execOrVxVy (x y : RegIdx) (s : State) : Host.Outcome State Fault Refusal :=
  .next (s.writeV x (s.readV x ||| s.readV y)).advance

/-- AND Vx, Vy (R145). -/
def execAndVxVy (x y : RegIdx) (s : State) : Host.Outcome State Fault Refusal :=
  .next (s.writeV x (s.readV x &&& s.readV y)).advance

/-- XOR Vx, Vy (R146). -/
def execXorVxVy (x y : RegIdx) (s : State) : Host.Outcome State Fault Refusal :=
  .next (s.writeV x (s.readV x ^^^ s.readV y)).advance

/-- ADD Vx, Vy (R147). -/
def execAddVxVy (x y : RegIdx) (s : State) : Host.Outcome State Fault Refusal :=
  .next (s.writeResultThenFlag x (sumByte (s.readV x) (s.readV y)) (carryFlag (s.readV x) (s.readV y))).advance

/-- SUB Vx, Vy (R148). -/
def execSubVxVy (x y : RegIdx) (s : State) : Host.Outcome State Fault Refusal :=
  .next (s.writeResultThenFlag x (differenceByte (s.readV x) (s.readV y))
    (notBorrowFlag (s.readV x) (s.readV y))).advance

/-- SHR Vx, Vy (R149): Y is not used. -/
def execShrVxVy (x _y : RegIdx) (s : State) : Host.Outcome State Fault Refusal :=
  .next (s.writeResultThenFlag x (shiftRightByte (s.readV x)) (shiftedOutRight (s.readV x))).advance

/-- SUBN Vx, Vy (R150): the result goes to VY. -/
def execSubnVxVy (x y : RegIdx) (s : State) : Host.Outcome State Fault Refusal :=
  .next (s.writeResultThenFlag y (differenceByte (s.readV y) (s.readV x))
    (notBorrowFlag (s.readV y) (s.readV x))).advance

/-- SHL Vx, Vy (R151): Y is not used. -/
def execShlVxVy (x _y : RegIdx) (s : State) : Host.Outcome State Fault Refusal :=
  .next (s.writeResultThenFlag x (shiftLeftByte (s.readV x)) (shiftedOutLeft (s.readV x))).advance

/-- RND Vx, nn (R152): a fresh byte of RAND under the mask. -/
def execRnd (x : RegIdx) (nn : Byte) (s : State) : Host.Outcome State Fault Refusal :=
  .next ((s.writeV x (s.randByte &&& nn)).countRandDraw).advance

end Machine
end Sys2Proof
end

