-- ==== Sys2Proof/Machine/Display.lean ====
section
/-! DEFINITION. The framebuffer: 00E0 and DXYN (44_display.md R190 to R194). -/

namespace Sys2Proof
namespace Machine

/-- CLS (R190). -/
def execCls (s : State) : Host.Outcome State Fault Refusal :=
  .next { s with fb := Vector.replicate 32 (Vector.replicate 64 false), redraw := true }.advance

/-- DRW Vx, Vy, n (R192): the memory check, then the framebuffer check on the set bits alone, then the draw.
No wrap, no clip; VF last. A draw's positions are distinct, so the loop of R192 toggles each once. -/
def execDrw (x y : RegIdx) (n : Nat) (s : State) : Host.Outcome State Fault Refusal :=
  let vx := s.readV x
  let vy := s.readV y
  if rangeFits s.i.toNat n then
    let positions := setBits (s.readBytes s.i.toNat n) vx.toNat vy.toNat
    if positions.all onScreen then
      .next ({ s with fb := xorPixels s.fb positions, redraw := true }.writeV regF
        (collisionFlag s.fb positions)).advance
    else .next (s.raiseFault .addrFb (encode (.drw x y n)) (spriteOrigin vx vy))
  else .next (s.raiseFault .addrMem (encode (.drw x y n)) s.i)

end Machine
end Sys2Proof
end

