-- ==== Sys2Proof/Machine/Flow.lean ====
section
/-! DEFINITION. Control flow: 00EE, 1NNN, 2NNN, 3XNN, 4XNN, 5XY0, 9XY0, BNNN (41_flow.md R120 to R129).
An instruction's opcode, for the fault latch, is its encoding: the fetched word itself (log entry 14). -/

namespace Sys2Proof
namespace Machine

/-- RET (R121). -/
def execRet (s : State) : Host.Outcome State Fault Refusal :=
  if s.sp.val = 0 then .next (s.raiseFault .stackUnderflow (encode .ret) 0)
  else .next s.popReturn

/-- JP nnn (R122). -/
def execJp (nnn : BitVec 12) (s : State) : Host.Outcome State Fault Refusal :=
  .next (s.jump (addressOperand nnn))

/-- CALL nnn (R123): the CALL's own address is pushed. -/
def execCall (nnn : BitVec 12) (s : State) : Host.Outcome State Fault Refusal :=
  if h : s.sp.val < 16 then .next ((s.pushPc h).jump (addressOperand nnn))
  else .next (s.raiseFault .stackOverflow (encode (.call nnn)) 16)

/-- SE Vx, nn (R124). -/
def execSeVxNn (x : RegIdx) (nn : Byte) (s : State) : Host.Outcome State Fault Refusal :=
  .next (s.skipIf (s.readV x == nn))

/-- SNE Vx, nn (R125). -/
def execSneVxNn (x : RegIdx) (nn : Byte) (s : State) : Host.Outcome State Fault Refusal :=
  .next (s.skipIf (s.readV x != nn))

/-- SE Vx, Vy (R126). -/
def execSeVxVy (x y : RegIdx) (s : State) : Host.Outcome State Fault Refusal :=
  .next (s.skipIf (s.readV x == s.readV y))

/-- SNE Vx, Vy (R127). -/
def execSneVxVy (x y : RegIdx) (s : State) : Host.Outcome State Fault Refusal :=
  .next (s.skipIf (s.readV x != s.readV y))

/-- JP V0, nnn (R128): the offset register is always V0. -/
def execJpV0 (nnn : BitVec 12) (s : State) : Host.Outcome State Fault Refusal :=
  .next (s.jump (offsetAddress nnn (s.readV 0)))

end Machine
end Sys2Proof
end

