-- ==== Sys2Proof/Machine/Index.lean ====
section
/-! DEFINITION. The index register and memory transfers: ANNN, FX1E, FX29, FX33, FX55, FX65 (43_index_memory.md
R170 to R175). A range check comes before the first access, in exact integers (20_memory.md R62). -/

namespace Sys2Proof
namespace Machine

/-- LD I, nnn (R170). -/
def execLdINnn (nnn : BitVec 12) (s : State) : Host.Outcome State Fault Refusal :=
  .next { s with i := addressOperand nnn }.advance

/-- ADD I, Vx (R171): modulo 65536, no flag. -/
def execAddIVx (x : RegIdx) (s : State) : Host.Outcome State Fault Refusal :=
  .next { s with i := BitVec.ofNat 16 (s.i.toNat + (s.readV x).toNat) }.advance

/-- LD F, Vx (R172). -/
def execLdFVx (x : RegIdx) (s : State) : Host.Outcome State Fault Refusal :=
  .next { s with i := glyphAddress (s.readV x) }.advance

/-- LD B, Vx (R173). -/
def execLdBVx (x : RegIdx) (s : State) : Host.Outcome State Fault Refusal :=
  if rangeFits s.i.toNat 3 then .next (s.storeBytes s.i.toNat (decimalDigits (s.readV x))).advance
  else .next (s.raiseFault .addrMem (encode (.ldBVx x)) s.i)

/-- LD [I], Vx (R174): I is unchanged. -/
def execLdMemVx (x : RegIdx) (s : State) : Host.Outcome State Fault Refusal :=
  if rangeFits s.i.toNat (x.val + 1) then .next (s.storeBytes s.i.toNat (s.registersUpTo x)).advance
  else .next (s.raiseFault .addrMem (encode (.ldMemVx x)) s.i)

/-- LD Vx, [I] (R175): I is unchanged. -/
def execLdVxMem (x : RegIdx) (s : State) : Host.Outcome State Fault Refusal :=
  if rangeFits s.i.toNat (x.val + 1) then .next (s.loadRegistersUpTo x s.i.toNat).advance
  else .next (s.raiseFault .addrMem (encode (.ldVxMem x)) s.i)

end Machine
end Sys2Proof
end

