-- ==== Sys2Proof/Machine/Keypad.lean ====
section
/-! DEFINITION. Keypad and timer instructions: EX9E, EXA1, FX07, FX0A, FX15, FX18 (45_keypad_timers.md R210 to
R217). -/

namespace Sys2Proof
namespace Machine

/-- SKP Vx (R210): the key index is the register's value. -/
def execSkp (x : RegIdx) (s : State) : Host.Outcome State Fault Refusal :=
  if isKeyIndex (s.readV x) then .next (s.skipIf (s.keyPressed (s.readV x).toNat))
  else .next (s.raiseFault .addrKey (encode (.skp x)) (zext16 (s.readV x)))

/-- SKNP Vx (R211). -/
def execSknp (x : RegIdx) (s : State) : Host.Outcome State Fault Refusal :=
  if isKeyIndex (s.readV x) then .next (s.skipIf (!s.keyPressed (s.readV x).toNat))
  else .next (s.raiseFault .addrKey (encode (.sknp x)) (zext16 (s.readV x)))

/-- LD Vx, DT (R212). -/
def execLdVxDt (x : RegIdx) (s : State) : Host.Outcome State Fault Refusal :=
  .next (s.writeV x s.dt).advance

/-- LD Vx, K in state Fetching (R213): a pressed key completes it at once, else the core waits, pc unchanged. -/
def execLdVxK (x : RegIdx) (s : State) : Host.Outcome State Fault Refusal :=
  match s.pressedKeys with
  | [] => .next { s with core := .awaitingKey x }
  | first :: others => .next (s.recordKey x first others)

/-- LD DT, Vx (R215). -/
def execLdDtVx (x : RegIdx) (s : State) : Host.Outcome State Fault Refusal :=
  .next { s with dt := s.readV x }.advance

/-- LD ST, Vx (R216). -/
def execLdStVx (x : RegIdx) (s : State) : Host.Outcome State Fault Refusal :=
  .next { s with st := s.readV x }.advance

end Machine
end Sys2Proof
end

