-- ==== Sys2Proof/Machine/Cycle.lean ====
section
/-! DEFINITION. The CYCLE operation (40_cycle.md R100 to R108) and the host's other operations (60_exceptions.md
R251; 70_reset_and_hazards.md R270 to R274). -/

namespace Sys2Proof
namespace Machine

/-- What follows Execute in a CYCLE: the coupled tick on its next state (R106). -/
def tickAfter : Host.Outcome State Fault Refusal → Host.Outcome State Fault Refusal
  | .next s => .next s.cycleTick
  | .fault r => .fault r
  | .refused r => .refused r

/-- A CYCLE in state Fetching: fetch, decode, execute, tick (R100, R102, R103, R105). -/
def fetchAndExecute (s : State) : Host.Outcome State Fault Refusal :=
  if s.canFetch then
    match decodeWord s.fetchOpcode with
    | .ok i => tickAfter (exec i s)
    | .error _ => .next (s.reportUnknown s.fetchOpcode).cycleTick
  else .next (s.raiseFault .addrFetch 0x0000 s.pc)

/-- CYCLE (R100). -/
def cycle (s : State) : Host.Outcome State Fault Refusal :=
  match s.core with
  | .faulted => .next s
  | .awaitingKey x => .next (s.pollKey x).cycleTick
  | .fetching => fetchAndExecute s

/-- The memory RESET leaves: FONT and zeros, which an unlisted address reads as, and the image from 0x200 (R270). -/
def loadedMemory (font : Font) (image : List Byte) : Memory := Memory.store font [] progBase image

/-- The state RESET(image) leaves: every state element of the core at its reset value (R270). The parameters stay
(10_state.md R34), and so does what is outside the core: the host's script, the events and replies so far, and
the numbers of draws made (log entry 18). -/
def State.resetCore (s : State) (image : List Byte) : State :=
  { State.reset with
    mem := loadedMemory s.params.font image
    params := s.params
    randDraws := s.randDraws
    keyDraws := s.keyDraws
    hostOps := s.hostOps
    events := s.events
    replies := s.replies
    loadRejected := false }

/-- RESET(image), or LoadFault(L) with no state of the core changed (R270, R273). -/
def State.hostReset (s : State) (image : List Byte) : State :=
  if imageFits image then
    let t := s.resetCore image
    { t with replies := t.replies ++ [.resetDone] }
  else { s with replies := s.replies ++ [.loadFault image.length], loadRejected := true }

/-- The value of a state element as an unsigned number: 1 for a pressed key, 0 for a released one (10_state.md R37). -/
def State.element (s : State) : StateElement → Nat
  | .v x => (s.readV x).toNat
  | .i => s.i.toNat
  | .pc => s.pc.toNat
  | .sp => s.sp.val
  | .stack k => s.stack[k.val].toNat
  | .dt => s.dt.toNat
  | .st => s.st.toNat
  | .key k => s.key[k.val].toNat
  | .mem a => (s.readByte a.toNat).toNat

/-- What READ answers with (60_exceptions.md R251; log entry 20). -/
def State.readOut (s : State) (asked : List StateElement) : ReadOut :=
  { fb := s.fb, redraw := s.redraw, core := s.core, latch := s.latch,
    asked := asked.map fun e => (e, s.element e) }

/-- One host operation (60_exceptions.md R251), run to its end (R252). -/
def perform (op : HostOp) (s : State) : Host.Outcome State Fault Refusal :=
  match op with
  | .cycle => if s.loadRejected then .refused .afterLoadFault else cycle s
  | .tick => if s.loadRejected then .refused .afterLoadFault else .next s.tick
  | .setKeys keys => .next { s with key := keys }
  | .read asked => .next { s with replies := s.replies ++ [.readOut (s.readOut asked)] }
  | .ackRedraw => .next { s with redraw := false }
  | .reset image => .next (s.hostReset image)

/-- The host's next operation and the state without it in the script: CYCLE where the script is empty (log entry 1). -/
def State.nextOp (s : State) : HostOp × State :=
  match s.hostOps with
  | [] => (.cycle, s)
  | op :: rest => (op, { s with hostOps := rest })

/-- The address the next fetch is made at: pc, or the entry point where pc cannot be fetched from. -/
def State.fetchableAt (s : State) : Word := if s.canFetch then s.pc else pcReset

/-- `s` about to fetch exactly the opcode `op`: its bytes in memory at pc, the core Fetching, a CYCLE the next
operation. It stands for the program load of RESET(image) (log entry 16). -/
def State.placeOpcode (s : State) (op : Word) : State :=
  { s.storeBytes s.fetchableAt.toNat (bytesOfOpcode op) with
    pc := s.fetchableAt
    core := .fetching
    hostOps := []
    loadRejected := false }

end Machine
end Sys2Proof
end

