-- ==== Sys2Proof/Machine/Step.lean ====
section
/-! DEFINITION. One step of the machine: one host operation, which is a CYCLE unless the script names another
(60_exceptions.md R251, R252; log entry 1). -/

namespace Sys2Proof
namespace Machine

/-- Perform the host's next operation. -/
def step (s : State) : Host.Outcome State Fault Refusal := perform s.nextOp.1 s.nextOp.2

/-- `s` with an opcode-table word placed where the next fetch reads it, a CYCLE being the next step. -/
def State.withFetchWord (s : State) (nbits w : Nat) : State := s.placeOpcode (tableOpcode nbits w)

end Machine
end Sys2Proof
end

