-- ==== Sys2Proof/Safety.lean ====
section
/-! DEFINITION. The terms claims are made in: how a run ends (40_cycle.md R109), runs of steps, what a raised fault leaves
(60_exceptions.md R233, R234), a sprite's pixels (44_display.md R191), and the invariant the rules make of every
state. They restate rules, and no meaning calls them. -/

namespace Sys2Proof

/-- The instruction's opcode matches a row's match and mask, and decodes to the instruction (30_encoding.md R85). -/
def Instr.hasPattern (i : Instr) (code mask : Word) : Prop :=
  encode i &&& mask = code ∧ decodeWord (encode i) = .ok i

namespace Machine

/-! ### Runs -/

/-- A run has finished: Fetching, and the opcode at pc jumps to pc itself (R109). -/
def State.finished (s : State) : Bool :=
  decide (s.core = .fetching) && s.canFetch && decide (s.fetchOpcode = 0x1000 ||| s.pc)

/-- A run has failed (R109). -/
def State.failed (s : State) : Bool := decide (s.core = .faulted)

/-- The next step is a CYCLE that is not refused: the script is empty and the last RESET was no load fault. -/
def State.cycles (s : State) : Prop := s.hostOps = [] ∧ s.loadRejected = false

/-- `n` steps lead from `s` to `t`, and every state after `s` on the way, `t` among them, has `P`. -/
def stepsThrough (P : State → Prop) : Nat → State → State → Prop
  | 0, s, t => s = t
  | n + 1, s, t => ∃ u, step s = .next u ∧ P u ∧ stepsThrough P n u t

/-- The next step is a READ that asks for a stack entry at or above SP (10_state.md R26). -/
def State.asksStale (s : State) : Prop :=
  ∃ asked rest k, s.hostOps = .read asked :: rest ∧ .stack k ∈ asked ∧ s.sp.val ≤ k.val

/-! ### Opcodes and faults -/

/-- The two bytes at pc as one number, the byte at pc the more significant (20_memory.md R69). -/
def State.opcodeAtPc (s : State) : Word :=
  BitVec.ofNat 16 (256 * (s.readByte s.pc.toNat).toNat + (s.readByte (s.pc.toNat + 1)).toNat)

/-- `t` is `s` after `raise Fault(code, info)` with opcode `op`: the latch, the core state and one event, and nothing
else (R233, R234). -/
def FaultTaken (s t : State) (code : FaultCode) (op info : Word) : Prop :=
  t = { s with
    latch := { code := code, pc := s.pc, opcode := op, info := info }
    core := .faulted
    events := s.events ++ [.fault code s.pc op info] }

/-- The fault an instruction raises in a state, by the conditions of R231 in the order of R236; `noFault` for none.
ADDR_FB is R192's condition, bit 7 of a row leftmost (R191; log entry 7). -/
def faultOf : Instr → State → FaultCode
  | .ret, s => if s.sp.val = 0 then .stackUnderflow else .noFault
  | .call _, s => if s.sp.val = 16 then .stackOverflow else .noFault
  | .ldBVx _, s => if s.i.toNat + 2 > 0xFFF then .addrMem else .noFault
  | .ldMemVx x, s => if s.i.toNat + x.val > 0xFFF then .addrMem else .noFault
  | .ldVxMem x, s => if s.i.toNat + x.val > 0xFFF then .addrMem else .noFault
  | .drw x y n, s =>
    if n > 0 ∧ s.i.toNat + n - 1 > 0xFFF then .addrMem
    else if (List.range n).any fun r => (List.range 8).any fun c =>
        (s.readByte (s.i.toNat + r)).getLsbD (7 - c) &&
          (decide ((s.readV x).toNat + c > 63) || decide ((s.readV y).toNat + r > 31)) then .addrFb
    else .noFault
  | .skp x, s => if (s.readV x).toNat > 0xF then .addrKey else .noFault
  | .sknp x, s => if (s.readV x).toNat > 0xF then .addrKey else .noFault
  | _, _ => .noFault

/-- The `fault_info` of R232, for an instruction that raises the fault in the state. -/
def faultInfo : FaultCode → Instr → State → Word
  | .stackOverflow, _, s => BitVec.ofNat 16 s.sp.val
  | .stackUnderflow, _, s => BitVec.ofNat 16 s.sp.val
  | .addrFetch, _, s => s.pc
  | .addrMem, _, s => s.i
  | .addrFb, .drw x y _, s => BitVec.ofNat 16 (256 * (s.readV x).toNat + (s.readV y).toNat)
  | .addrKey, .skp x, s => BitVec.ofNat 16 (s.readV x).toNat
  | .addrKey, .sknp x, s => BitVec.ofNat 16 (s.readV x).toNat
  | _, _, _ => 0

/-! ### Sprites -/

/-- A sprite of `n` rows at I, with origin (vx, vy), has a set bit at (px, py) (R191). -/
def spriteSets (s : State) (n vx vy px py : Nat) : Prop :=
  ∃ r c, r < n ∧ c ≤ 7 ∧ px = vx + c ∧ py = vy + r ∧ (s.readByte (s.i.toNat + r)).getLsbD (7 - c) = true

/-- Turn one pixel over. -/
def togglePixel (fb : Framebuffer) (x y : Nat) : Framebuffer :=
  if h : x < 64 ∧ y < 32 then fb.set y (fb[y].set x (!fb[y][x])) else fb

/-- R192's inner statement for row byte `row`, row number r and column c: a set bit records a collision and toggles its
pixel. -/
def drawBit (vx vy : Nat) (row : Byte) (r : Nat) (drawn : Framebuffer × Bool) (c : Nat) : Framebuffer × Bool :=
  if row.getLsbD (7 - c) then (togglePixel drawn.1 (vx + c) (vy + r), drawn.2 || pixel drawn.1 (vx + c) (vy + r))
  else drawn

/-- R192's loop "for r in 0 .. N-1, c in 0 .. 7", from the framebuffer and no collision. -/
def drawLoop (rows : List Byte) (vx vy : Nat) (fb : Framebuffer) : Framebuffer × Bool :=
  rows.zipIdx.foldl (fun drawn p => (List.range 8).foldl (drawBit vx vy p.1 p.2) drawn) (fb, false)

/-! ### The register table (10_state.md R22) -/

/-- R22's column "reads". -/
def regReads : Instr → List RegIdx
  | .seVxNn x _ | .sneVxNn x _ | .addVxNn x _ | .shrVxVy x _ | .shlVxVy x _ => [x]
  | .seVxVy x y | .sneVxVy x y | .orVxVy x y | .andVxVy x y | .xorVxVy x y | .addVxVy x y | .subVxVy x y
  | .subnVxVy x y | .drw x y _ => [x, y]
  | .ldVxVy _ y => [y]
  | .jpV0 _ => [0]
  | .skp x | .sknp x | .ldDtVx x | .ldStVx x | .addIVx x | .ldFVx x | .ldBVx x => [x]
  | .ldMemVx x => (List.finRange 16).filter (· ≤ x)
  | .cls | .ret | .jp _ | .call _ | .ldVxNn _ _ | .ldINnn _ | .rnd _ _ | .ldVxDt _ | .ldVxK _ | .ldVxMem _ => []

/-- R22's column "writes". -/
def regWrites : Instr → List RegIdx
  | .ldVxNn x _ | .addVxNn x _ | .ldVxVy x _ | .orVxVy x _ | .andVxVy x _ | .xorVxVy x _ | .rnd x _
  | .ldVxDt x | .ldVxK x => [x]
  | .addVxVy x _ | .subVxVy x _ | .shrVxVy x _ | .shlVxVy x _ => [x, 15]
  | .subnVxVy _ y => [y, 15]
  | .drw _ _ _ => [15]
  | .ldVxMem x => (List.finRange 16).filter (· ≤ x)
  | .cls | .ret | .jp _ | .call _ | .seVxNn _ _ | .sneVxNn _ _ | .seVxVy _ _ | .sneVxVy _ _ | .ldINnn _ | .jpV0 _
  | .skp _ | .sknp _ | .ldDtVx _ | .ldStVx _ | .addIVx _ | .ldFVx _ | .ldBVx _ | .ldMemVx _ => []

/-! ### The invariant -/

/-- What holds of every state that a step keeps (and State.reset has):
memory is canonical; the latch holds a fault exactly in Faulted, and never UNKNOWN_OPCODE (10_state.md R33;
60_exceptions.md R235); pc never exceeds 0x10FE (10_state.md R24); every stack entry is an address a CALL can be
fetched from; and in AwaitingKey(x), pc still addresses an FX0A with that x (R32). -/
structure State.Inv (s : State) : Prop where
  memory_canonical : s.mem.wf s.params.font = true
  latched_iff_faulted : s.latch.code ≠ .noFault ↔ s.core = .faulted
  unknown_never_latched : s.latch.code ≠ .unknownOpcode
  pc_bounded : s.pc.toNat ≤ 0x10FE
  stack_fetchable : ∀ k : Fin 16, s.stack[k.val].toNat ≤ 0xFFE
  waiting_at_ldVxK : ∀ x, s.core = .awaitingKey x →
    s.canFetch = true ∧ decodeWord s.fetchOpcode = .ok (.ldVxK x)

end Machine
end Sys2Proof
end

