-- ==== Sys2Proof/Certificates/Slice0/Obligations.lean ====
section
/-! DEFINITION. The statements for the provers. Each docstring names the rule it formalises. -/

open Sys2Proof
open Sys2Proof.Machine
open Host.Outcome (next)

/-! ## Encoding -/

/-- R85, R80, with the model's own encoder: decoding an encoded well-formed instruction gives it back, with every
operand, and consumes exactly its two bytes. -/
def Obligations.DecodeOfEncodeIsTheInstruction : Prop :=
  ∀ (i : Instr) (rest : List Byte), i.wellFormed = true →
    decodeWord (encode i) = .ok i ∧ decodeBytes (encodeBytes i ++ rest) = .ok (i, rest)

/-- The other direction: each opcode has one meaning, whose encoding is the opcode itself. -/
def Obligations.EncodeOfDecodeIsTheOpcode : Prop :=
  ∀ (op : Word) (i : Instr), decodeWord op = .ok i → encode i = op ∧ i.wellFormed = true

/-- R103: Decode(op) is the instruction of the one row that matches, and Unknown where none does. -/
def Obligations.DecodeGivesTheUniqueMatchingRow : Prop :=
  ∀ op : Word,
    opcodeTable.countP (fun r => op &&& r.mask == r.code) ≤ 1 ∧
    (∀ r ∈ opcodeTable, op &&& r.mask = r.code → decodeWord op = .ok (r.build op)) ∧
    ((∀ r ∈ opcodeTable, op &&& r.mask ≠ r.code) → decodeWord op = .error (.unknownOpcode op))

/-- R86: the complete unknown set. -/
def Obligations.UnknownOpcodesAreTheListedOnes : Prop :=
  ∀ op : Word,
    let top := op.toNat / 0x1000
    let low := op.toNat % 0x10
    let byte := op.toNat % 0x100
    decodeWord op = .error (.unknownOpcode op) ↔
      (op.toNat ≤ 0x0FFF ∧ op ≠ 0x00E0 ∧ op ≠ 0x00EE) ∨
      (top = 0x5 ∧ low ≠ 0) ∨
      (top = 0x8 ∧ low ∈ [0x8, 0x9, 0xA, 0xB, 0xC, 0xD, 0xF]) ∨
      (top = 0x9 ∧ low ≠ 0) ∨
      (top = 0xE ∧ byte ∉ [0x9E, 0xA1]) ∨
      (top = 0xF ∧ byte ∉ [0x07, 0x0A, 0x15, 0x18, 0x1E, 0x29, 0x33, 0x55, 0x65])

/-- Sanity: opcodes of 95_test_vectors.md, one or more per family, decode to what they stand for. -/
def Obligations.OpcodesOfTheTestVectorsDecode : Prop :=
  decodeBytes [0x00, 0xEE] = .ok (.ret, []) ∧
  decodeBytes [0x23, 0x00] = .ok (.call 0x300, []) ∧
  decodeBytes [0x91, 0x20] = .ok (.sneVxVy 1 2, []) ∧
  decodeBytes [0x6A, 0x05] = .ok (.ldVxNn 0xA 0x05, []) ∧
  decodeBytes [0x81, 0xF7] = .ok (.subnVxVy 1 15, []) ∧
  decodeBytes [0xA1, 0x23] = .ok (.ldINnn 0x123, []) ∧
  decodeBytes [0xD0, 0x15] = .ok (.drw 0 1 5, []) ∧
  decodeBytes [0xE1, 0xA1] = .ok (.sknp 1, []) ∧
  decodeBytes [0xF5, 0x0A] = .ok (.ldVxK 5, []) ∧
  decodeBytes [0xF3, 0x55] = .ok (.ldMemVx 3, []) ∧
  decodeBytes [0x91, 0x21] = .error (.unknownOpcode 0x9121)

/-! ## The cycle -/

/-- R100, R102, R69, R106: in Fetching, when the two bytes at pc, high byte first, decode to `i`, the step is `exec i`
at that very state, and in coupled mode one tick after it. -/
def Obligations.StepRunsTheDecodedInstruction : Prop :=
  ∀ (s : State) (i : Instr), s.cycles → s.core = .fetching → s.pc.toNat ≤ 0xFFE →
    decodeWord s.opcodeAtPc = .ok i →
    ∀ t, exec i s = next t → step s = next (if s.params.coupling = .coupled then t.tick else t)

/-- R102: the word fetched is the two bytes at pc, the first the more significant, and the fetch faults exactly where
pc + 1 > 0xFFF, before anything else happens; there is no tick then in either mode. -/
def Obligations.FetchOutsideMemoryFaults : Prop :=
  ∀ s : State, s.cycles → s.core = .fetching →
    s.fetchOpcode = s.opcodeAtPc ∧
    (0xFFF ≤ s.pc.toNat → ∃ t, step s = next t ∧ FaultTaken s t .addrFetch 0x0000 s.pc) ∧
    (s.pc.toNat ≤ 0xFFE → s.latch.code ≠ .addrFetch → ∀ t, step s = next t → t.latch.code ≠ .addrFetch)

/-- R105: an unknown opcode is one DecodeReport and pc + 2, nothing else; in coupled mode the tick still runs. -/
def Obligations.UnknownOpcodeIsAReportedNoOp : Prop :=
  ∀ s : State, s.cycles → s.core = .fetching → s.pc.toNat ≤ 0xFFE →
    decodeWord s.opcodeAtPc = .error (.unknownOpcode s.opcodeAtPc) →
    let u := { s with pc := s.pc + 2, events := s.events ++ [.decodeReport s.pc s.opcodeAtPc] }
    step s = next (if s.params.coupling = .coupled then u.tick else u)

/-- R106: a CYCLE of a coupled machine is the CYCLE of the same machine decoupled, with one Tick() at its end (which does
nothing in Faulted, so a CYCLE that raised a fault does not tick). -/
def Obligations.CoupledCycleIsTheDecoupledOneThenATick : Prop :=
  ∀ (s u : State), s.cycles → s.params.coupling = .coupled →
    step { s with params := { s.params with coupling := .decoupled } } = next u →
    step s = next { u.tick with params := s.params }

/-- R107: in Faulted, a CYCLE changes nothing, and TICK changes nothing but the script; no step but a RESET leaves it. -/
def Obligations.FaultedCoreDoesNothing : Prop :=
  ∀ s : State, s.core = .faulted → s.loadRejected = false →
    (s.hostOps = [] → step s = next s) ∧
    (∀ rest, s.hostOps = .cycle :: rest ∨ s.hostOps = .tick :: rest → step s = next { s with hostOps := rest }) ∧
    (∀ t, step s = next t → t.core = .faulted ∨ ∃ image rest, s.hostOps = .reset image :: rest)

/-- R239, R107: no step leaves Faulted but a RESET that succeeds, and no other step changes the latch meanwhile. -/
def Obligations.OnlyResetLeavesFaulted : Prop :=
  ∀ s t : State, s.core = .faulted → step s = next t →
    (t.core = .faulted ∧ t.latch = s.latch ∧ t.pc = s.pc ∧ t.v = s.v ∧ t.mem = s.mem) ∨
    (∃ image rest, s.hostOps = .reset image :: rest ∧ image.length ≤ 3584)

/-- R104: how every instruction that completes sets pc: the five classes; one that raises a fault leaves pc. -/
def Obligations.CompletedInstructionsSetPcByTheirClass : Prop :=
  ∀ (i : Instr) (s t : State), exec i s = next t → s.core = .fetching →
    (t.core = .faulted → t.pc = s.pc) ∧
    (t.core ≠ .faulted → match i with
    | .jp nnn | .call nnn => t.pc.toNat = nnn.toNat
    | .jpV0 nnn => t.pc.toNat = nnn.toNat + (s.readV 0).toNat
    | .ret => t.pc = s.stack[s.sp.val - 1] + 2
    | .seVxNn x nn => t.pc = if s.readV x = nn then s.pc + 4 else s.pc + 2
    | .sneVxNn x nn => t.pc = if s.readV x ≠ nn then s.pc + 4 else s.pc + 2
    | .seVxVy x y => t.pc = if s.readV x = s.readV y then s.pc + 4 else s.pc + 2
    | .sneVxVy x y => t.pc = if s.readV x ≠ s.readV y then s.pc + 4 else s.pc + 2
    | .skp x => t.pc = if s.key.getD (s.readV x).toNat false = true then s.pc + 4 else s.pc + 2
    | .sknp x => t.pc = if s.key.getD (s.readV x).toNat false = false then s.pc + 4 else s.pc + 2
    | .ldVxK _ => t.pc = if ∃ k : Fin 16, s.key[k.val] = true then s.pc + 2 else s.pc
    | _ => t.pc = s.pc + 2)

/-- R109: the core never stops by itself: a CYCLE is always possible. -/
def Obligations.CycleIsAlwaysPossible : Prop :=
  ∀ s : State, s.cycles → ∃ t, step s = next t

/-! ## Control flow -/

/-- R121: RET. -/
def Obligations.RetReturnsPastTheCall : Prop :=
  Instr.ret.hasPattern 0x00EE 0xFFFF ∧
  ∀ s : State,
    (s.sp.val = 0 → ∃ t, exec .ret s = next t ∧ FaultTaken s t .stackUnderflow 0x00EE 0) ∧
    (0 < s.sp.val → ∃ t, exec .ret s = next t ∧ t.sp.val = s.sp.val - 1 ∧ t.pc = s.stack[s.sp.val - 1] + 2 ∧
      t = { s with sp := t.sp, pc := t.pc } ∧ ∀ a, t.readByte a = s.readByte a)

/-- R122 and R128: JP sets pc to NNN; JP V0 sets it to the exact sum NNN + V0, not reduced to 12 bits. -/
def Obligations.JumpsSetPc : Prop :=
  ∀ (nnn : BitVec 12) (s : State),
    ((Instr.jp nnn).hasPattern 0x1000 0xF000 ∧
      ∃ t, exec (.jp nnn) s = next t ∧ t.pc.toNat = nnn.toNat ∧ t = { s with pc := t.pc } ∧
        ∀ a, t.readByte a = s.readByte a) ∧
    ((Instr.jpV0 nnn).hasPattern 0xB000 0xF000 ∧
      ∃ t, exec (.jpV0 nnn) s = next t ∧ t.pc.toNat = nnn.toNat + (s.readV 0).toNat ∧ t = { s with pc := t.pc } ∧
        ∀ a, t.readByte a = s.readByte a)

/-- R123: CALL. -/
def Obligations.CallPushesItsOwnAddress : Prop :=
  ∀ (nnn : BitVec 12) (s : State),
    (Instr.call nnn).hasPattern 0x2000 0xF000 ∧
    (s.sp.val = 16 →
      ∃ t, exec (.call nnn) s = next t ∧ FaultTaken s t .stackOverflow (BitVec.ofNat 16 (0x2000 + nnn.toNat)) 16) ∧
    (∀ _ : s.sp.val < 16,
      ∃ t, exec (.call nnn) s = next t ∧ t.sp.val = s.sp.val + 1 ∧ t.pc.toNat = nnn.toNat ∧
        t.stack[s.sp.val] = s.pc ∧ (∀ k : Fin 16, k.val ≠ s.sp.val → t.stack[k.val] = s.stack[k.val]) ∧
        t = { s with sp := t.sp, pc := t.pc, stack := t.stack } ∧ ∀ a, t.readByte a = s.readByte a)

/-- R124 to R127: the four register skips: pc + 4 when the condition holds, pc + 2 when not, and nothing else. -/
def Obligations.RegisterSkipsAddFourOrTwo : Prop :=
  ∀ (x y : RegIdx) (nn : Byte) (s : State),
    ((Instr.seVxNn x nn).hasPattern 0x3000 0xF000 ∧ ∃ t, exec (.seVxNn x nn) s = next t ∧
      (s.readV x = nn → t.pc = s.pc + 4) ∧ (s.readV x ≠ nn → t.pc = s.pc + 2) ∧ t = { s with pc := t.pc } ∧
      ∀ a, t.readByte a = s.readByte a) ∧
    ((Instr.sneVxNn x nn).hasPattern 0x4000 0xF000 ∧ ∃ t, exec (.sneVxNn x nn) s = next t ∧
      (s.readV x ≠ nn → t.pc = s.pc + 4) ∧ (s.readV x = nn → t.pc = s.pc + 2) ∧ t = { s with pc := t.pc } ∧
      ∀ a, t.readByte a = s.readByte a) ∧
    ((Instr.seVxVy x y).hasPattern 0x5000 0xF00F ∧ ∃ t, exec (.seVxVy x y) s = next t ∧
      (s.readV x = s.readV y → t.pc = s.pc + 4) ∧ (s.readV x ≠ s.readV y → t.pc = s.pc + 2) ∧
      t = { s with pc := t.pc } ∧ ∀ a, t.readByte a = s.readByte a) ∧
    ((Instr.sneVxVy x y).hasPattern 0x9000 0xF00F ∧ ∃ t, exec (.sneVxVy x y) s = next t ∧
      (s.readV x ≠ s.readV y → t.pc = s.pc + 4) ∧ (s.readV x = s.readV y → t.pc = s.pc + 2) ∧
      t = { s with pc := t.pc } ∧ ∀ a, t.readByte a = s.readByte a)

/-- R129: a CALL from `s`, any steps through states whose stack stays above the call's own depth (its body's CALLs and
RETs are balanced), then a RET at the call's depth: pc is the call's address + 2 and SP is what it was. -/
def Obligations.CallBalancedBodyReturn : Prop :=
  ∀ (nnn : BitVec 12) (n : Nat) (s t u r : State), s.sp.val < 16 → exec (.call nnn) s = next t →
    stepsThrough (fun q => s.sp.val < q.sp.val) n t u → u.sp.val = s.sp.val + 1 → exec .ret u = next r →
    r.pc = s.pc + 2 ∧ r.sp = s.sp

/-! ## ALU -/

/-- R141 to R146: loads, ADD immediate and logic write VX alone (VF too only when X = F), with no flag. -/
def Obligations.LoadsAndLogicWriteOneRegister : Prop :=
  ∀ (x y : RegIdx) (nn : Byte) (s : State),
    let writesOnly (i : Instr) (value : Byte) : Prop :=
      ∃ t, exec i s = next t ∧ (∀ k, t.readV k = if k = x then value else s.readV k) ∧ t.pc = s.pc + 2 ∧
        t = { s with v := t.v, pc := t.pc } ∧ ∀ a, t.readByte a = s.readByte a
    ((Instr.ldVxNn x nn).hasPattern 0x6000 0xF000 ∧ writesOnly (.ldVxNn x nn) nn) ∧
    ((Instr.addVxNn x nn).hasPattern 0x7000 0xF000 ∧
      writesOnly (.addVxNn x nn) (BitVec.ofNat 8 (((s.readV x).toNat + nn.toNat) % 256))) ∧
    ((Instr.ldVxVy x y).hasPattern 0x8000 0xF00F ∧ writesOnly (.ldVxVy x y) (s.readV y)) ∧
    ((Instr.orVxVy x y).hasPattern 0x8001 0xF00F ∧ writesOnly (.orVxVy x y) (s.readV x ||| s.readV y)) ∧
    ((Instr.andVxVy x y).hasPattern 0x8002 0xF00F ∧ writesOnly (.andVxVy x y) (s.readV x &&& s.readV y)) ∧
    ((Instr.xorVxVy x y).hasPattern 0x8003 0xF00F ∧ writesOnly (.xorVxVy x y) (s.readV x ^^^ s.readV y))

/-- R147, R148 and R150 with R140: ADD, SUB and SUBN write their result register (VY for SUBN) and then VF, from
operands read first: in VF the flag stays, whatever registers coincide. -/
def Obligations.SumsAndDifferencesSetTheFlagLast : Prop :=
  ∀ (x y : RegIdx) (s : State),
    let vx := (s.readV x).toNat
    let vy := (s.readV y).toNat
    let writes (i : Instr) (dest : RegIdx) (result flag : Nat) : Prop :=
      ∃ t, exec i s = next t ∧
        (∀ k, (t.readV k).toNat = if k = 15 then flag else if k = dest then result else (s.readV k).toNat) ∧
        t.pc = s.pc + 2 ∧ t = { s with v := t.v, pc := t.pc } ∧ ∀ a, t.readByte a = s.readByte a
    ((Instr.addVxVy x y).hasPattern 0x8004 0xF00F ∧
      writes (.addVxVy x y) x ((vx + vy) % 256) (if vx + vy > 255 then 1 else 0)) ∧
    ((Instr.subVxVy x y).hasPattern 0x8005 0xF00F ∧
      writes (.subVxVy x y) x ((vx + 256 - vy) % 256) (if vy > vx then 0 else 1)) ∧
    ((Instr.subnVxVy x y).hasPattern 0x8007 0xF00F ∧
      writes (.subnVxVy x y) y ((vy + 256 - vx) % 256) (if vx > vy then 0 else 1))

/-- R149 and R151 with R140: the shifts use VX alone, and VF ends as the bit shifted out. -/
def Obligations.ShiftsMoveOneBitIntoVf : Prop :=
  ∀ (x y : RegIdx) (s : State),
    let vx := (s.readV x).toNat
    let writes (i : Instr) (result flag : Nat) : Prop :=
      ∃ t, exec i s = next t ∧
        (∀ k, (t.readV k).toNat = if k = 15 then flag else if k = x then result else (s.readV k).toNat) ∧
        t.pc = s.pc + 2 ∧ t = { s with v := t.v, pc := t.pc } ∧ ∀ a, t.readByte a = s.readByte a
    ((Instr.shrVxVy x y).hasPattern 0x8006 0xF00F ∧ writes (.shrVxVy x y) (vx / 2) (vx % 2)) ∧
    ((Instr.shlVxVy x y).hasPattern 0x800E 0xF00F ∧ writes (.shlVxVy x y) (vx * 2 % 256) (vx / 128))

/-- R152: RND writes some byte under the mask: no bit outside NN is set. Which byte is a free value; the count of draws
is the model's own field (log entry 4). -/
def Obligations.RandomByteIsMasked : Prop :=
  ∀ (x : RegIdx) (nn : Byte) (s : State),
    (Instr.rnd x nn).hasPattern 0xC000 0xF000 ∧
    ∃ t r, exec (.rnd x nn) s = next t ∧ (∀ k, t.readV k = if k = x then r &&& nn else s.readV k) ∧
      t.pc = s.pc + 2 ∧ t = { s with v := t.v, pc := t.pc, randDraws := t.randDraws } ∧
      ∀ a, t.readByte a = s.readByte a

/-! ## Registers as a whole -/

/-- R22: an instruction's effect depends on no general register but those R22 says it reads, and it writes none but those
R22 says it writes. -/
def Obligations.RegisterUseIsThatOfTheTable : Prop :=
  ∀ (i : Instr) (s s' t t' : State), s' = { s with v := s'.v } → (∀ k ∈ regReads i, s.readV k = s'.readV k) →
    exec i s = next t → exec i s' = next t' →
    t' = { t with v := t'.v } ∧
    ∀ k, (k ∈ regWrites i ∧ t.readV k = t'.readV k) ∨ (t.readV k = s.readV k ∧ t'.readV k = s'.readV k)

/-- R21: a flag-producing instruction that completes leaves VF 0 or 1; any other changes VF only as its named destination
(X = F, or FX65 with X = F). -/
def Obligations.VfIsAFlagOrANamedDestination : Prop :=
  ∀ (i : Instr) (s t : State), exec i s = next t → s.core = .fetching → t.core = .fetching →
    match i with
    | .addVxVy _ _ | .subVxVy _ _ | .shrVxVy _ _ | .subnVxVy _ _ | .shlVxVy _ _ | .drw _ _ _ =>
      t.readV 15 = 0 ∨ t.readV 15 = 1
    | .ldVxNn x _ | .addVxNn x _ | .ldVxVy x _ | .orVxVy x _ | .andVxVy x _ | .xorVxVy x _ | .rnd x _ | .ldVxDt x
    | .ldVxK x | .ldVxMem x => x ≠ 15 → t.readV 15 = s.readV 15
    | _ => t.readV 15 = s.readV 15

/-- R22 to R33, R61: which instruction writes V, I, SP, STACK, DT, ST, FB, redraw, the core state, the fault latch and
memory; pc is written by no instruction that faults or begins to wait; no instruction writes the keypad or a parameter. -/
def Obligations.EachStateElementHasItsWriters : Prop :=
  ∀ (i : Instr) (s t : State), exec i s = next t →
    let faulting : Prop := i = .ret ∨ (∃ nnn, i = .call nnn) ∨ (∃ x, i = .ldBVx x) ∨ (∃ x, i = .ldMemVx x) ∨
      (∃ x, i = .ldVxMem x) ∨ (∃ x y n, i = .drw x y n) ∨ (∃ x, i = .skp x) ∨ (∃ x, i = .sknp x)
    (∀ k, t.readV k ≠ s.readV k → k ∈ regWrites i) ∧
    (t.i ≠ s.i → (∃ nnn, i = .ldINnn nnn) ∨ (∃ x, i = .addIVx x) ∨ (∃ x, i = .ldFVx x)) ∧
    (t.sp ≠ s.sp → i = .ret ∨ ∃ nnn, i = .call nnn) ∧
    (t.stack ≠ s.stack → ∃ nnn, i = .call nnn) ∧
    (t.dt ≠ s.dt → ∃ x, i = .ldDtVx x) ∧
    (t.st ≠ s.st → ∃ x, i = .ldStVx x) ∧
    (t.fb ≠ s.fb ∨ t.redraw ≠ s.redraw → i = .cls ∨ ∃ x y n, i = .drw x y n) ∧
    (t.mem ≠ s.mem → (∃ x, i = .ldBVx x) ∨ (∃ x, i = .ldMemVx x)) ∧
    (t.pc ≠ s.pc → t.core = s.core ∧ t.latch = s.latch) ∧
    (t.core ≠ s.core → (∃ x, i = .ldVxK x ∧ t.core = .awaitingKey x) ∨ (faulting ∧ t.core = .faulted)) ∧
    (t.latch ≠ s.latch → faulting ∧ t.core = .faulted) ∧
    t.key = s.key ∧ t.params = s.params

/-! ## Index register and memory -/

/-- R170, R171 and R172: I becomes NNN, the sum modulo 65536, or the exact product 5·VX; no flag. -/
def Obligations.IndexRegisterWrites : Prop :=
  ∀ (x : RegIdx) (nnn : BitVec 12) (s : State),
    let setsI (i : Instr) (value : Nat) : Prop :=
      ∃ t, exec i s = next t ∧ t.i.toNat = value ∧ t.pc = s.pc + 2 ∧ t = { s with i := t.i, pc := t.pc } ∧
        ∀ a, t.readByte a = s.readByte a
    ((Instr.ldINnn nnn).hasPattern 0xA000 0xF000 ∧ setsI (.ldINnn nnn) nnn.toNat) ∧
    ((Instr.addIVx x).hasPattern 0xF01E 0xF0FF ∧
      setsI (.addIVx x) ((s.i.toNat + (s.readV x).toNat) % 65536)) ∧
    ((Instr.ldFVx x).hasPattern 0xF029 0xF0FF ∧ setsI (.ldFVx x) (5 * (s.readV x).toNat))

/-- R173: the three decimal digits of VX at I, I + 1 and I + 2, or ADDR_MEM with nothing written. -/
def Obligations.DecimalDigitsAreStored : Prop :=
  ∀ (x : RegIdx) (s : State),
    (Instr.ldBVx x).hasPattern 0xF033 0xF0FF ∧
    (s.i.toNat + 2 ≤ 0xFFF →
      ∃ t, exec (.ldBVx x) s = next t ∧
        (t.readByte s.i.toNat).toNat = (s.readV x).toNat / 100 ∧
        (t.readByte (s.i.toNat + 1)).toNat = (s.readV x).toNat / 10 % 10 ∧
        (t.readByte (s.i.toNat + 2)).toNat = (s.readV x).toNat % 10 ∧
        (∀ a, (a < s.i.toNat ∨ s.i.toNat + 2 < a) → t.readByte a = s.readByte a) ∧
        t.pc = s.pc + 2 ∧ t = { s with mem := t.mem, pc := t.pc }) ∧
    (s.i.toNat + 2 > 0xFFF →
      ∃ t, exec (.ldBVx x) s = next t ∧
        FaultTaken s t .addrMem (BitVec.ofNat 16 (0xF033 + 0x100 * x.val)) s.i)

/-- R174: V0 to VX at I to I + X, I unchanged, or ADDR_MEM with nothing written. -/
def Obligations.RegistersAreStored : Prop :=
  ∀ (x : RegIdx) (s : State),
    (Instr.ldMemVx x).hasPattern 0xF055 0xF0FF ∧
    (s.i.toNat + x.val ≤ 0xFFF →
      ∃ t, exec (.ldMemVx x) s = next t ∧
        (∀ k : RegIdx, k ≤ x → t.readByte (s.i.toNat + k.val) = s.readV k) ∧
        (∀ a, (a < s.i.toNat ∨ s.i.toNat + x.val < a) → t.readByte a = s.readByte a) ∧
        t.pc = s.pc + 2 ∧ t = { s with mem := t.mem, pc := t.pc }) ∧
    (s.i.toNat + x.val > 0xFFF →
      ∃ t, exec (.ldMemVx x) s = next t ∧
        FaultTaken s t .addrMem (BitVec.ofNat 16 (0xF055 + 0x100 * x.val)) s.i)

/-- R175: V0 to VX from I to I + X, I unchanged, or ADDR_MEM with no register written. -/
def Obligations.RegistersAreLoaded : Prop :=
  ∀ (x : RegIdx) (s : State),
    (Instr.ldVxMem x).hasPattern 0xF065 0xF0FF ∧
    (s.i.toNat + x.val ≤ 0xFFF →
      ∃ t, exec (.ldVxMem x) s = next t ∧
        (∀ k : RegIdx, t.readV k = if k ≤ x then s.readByte (s.i.toNat + k.val) else s.readV k) ∧
        t.pc = s.pc + 2 ∧ t = { s with v := t.v, pc := t.pc } ∧ ∀ a, t.readByte a = s.readByte a) ∧
    (s.i.toNat + x.val > 0xFFF →
      ∃ t, exec (.ldVxMem x) s = next t ∧
        FaultTaken s t .addrMem (BitVec.ofNat 16 (0xF065 + 0x100 * x.val)) s.i)

/-- R76, R277: FX33 and FX55 leave the next opcode as the very next fetch reads it: of its two bytes, the high one first,
each is the byte stored there, or what it was where none is stored. -/
def Obligations.StoreOverTheNextInstructionIsFetched : Prop :=
  ∀ (x : RegIdx) (s : State), s.cycles → s.core = .fetching → s.pc.toNat + 3 ≤ 0xFFF →
    let I := s.i.toNat
    let v := (s.readV x).toNat
    let fetched (byteAt : Nat → Byte) (t : State) : Prop :=
      step s = next t ∧ t.pc = s.pc + 2 ∧ t.core = .fetching ∧
      t.opcodeAtPc =
        BitVec.ofNat 16 (256 * (byteAt (s.pc.toNat + 2)).toNat + (byteAt (s.pc.toNat + 3)).toNat)
    (decodeWord s.opcodeAtPc = .ok (.ldMemVx x) → I + x.val ≤ 0xFFF → ∃ t, fetched (fun a =>
      if I ≤ a ∧ a ≤ I + x.val then s.v.getD (a - I) 0 else s.readByte a) t) ∧
    (decodeWord s.opcodeAtPc = .ok (.ldBVx x) → I + 2 ≤ 0xFFF → ∃ t, fetched (fun a =>
      if a = I then BitVec.ofNat 8 (v / 100) else if a = I + 1 then BitVec.ofNat 8 (v / 10 % 10)
      else if a = I + 2 then BitVec.ofNat 8 (v % 10) else s.readByte a) t)

/-! ## Display -/

/-- R190: CLS. -/
def Obligations.ClearTurnsEveryPixelOff : Prop :=
  Instr.cls.hasPattern 0x00E0 0xFFFF ∧
  ∀ s : State, ∃ t, exec .cls s = next t ∧
    (∀ (y : Fin 32) (x : Fin 64), t.fb[y.val][x.val] = false) ∧ t.redraw = true ∧ t.pc = s.pc + 2 ∧
    t = { s with fb := t.fb, redraw := t.redraw, pc := t.pc } ∧ ∀ a, t.readByte a = s.readByte a

/-- R191 and R192: DRW. That bit 7 is the leftmost pixel is PRESUMED (log entry 7), as R191 itself says of it. ADDR_MEM first, then ADDR_FB for a set bit off the screen, else every pixel under a set bit is
turned over and VF is 1 iff one of those was set. -/
def Obligations.DrawXorsTheSprite : Prop :=
  ∀ (x y : RegIdx) (n : Nat) (s : State), n ≤ 15 →
    let vx := (s.readV x).toNat
    let vy := (s.readV y).toNat
    let op := BitVec.ofNat 16 (0xD000 + 0x100 * x.val + 0x10 * y.val + n)
    let sets (px py : Nat) : Prop := spriteSets s n vx vy px py
    (Instr.drw x y n).hasPattern 0xD000 0xF000 ∧
    (n > 0 ∧ s.i.toNat + n - 1 > 0xFFF → ∃ t, exec (.drw x y n) s = next t ∧ FaultTaken s t .addrMem op s.i) ∧
    ((n = 0 ∨ s.i.toNat + n - 1 ≤ 0xFFF) → (∃ px py, sets px py ∧ (px > 63 ∨ py > 31)) →
      ∃ t, exec (.drw x y n) s = next t ∧ FaultTaken s t .addrFb op (BitVec.ofNat 16 (256 * vx + vy))) ∧
    ((n = 0 ∨ s.i.toNat + n - 1 ≤ 0xFFF) → (∀ px py, sets px py → px ≤ 63 ∧ py ≤ 31) →
      ∃ t, exec (.drw x y n) s = next t ∧
        (∀ (py : Fin 32) (px : Fin 64),
          (sets px.val py.val → t.fb[py.val][px.val] = !s.fb[py.val][px.val]) ∧
          (¬ sets px.val py.val → t.fb[py.val][px.val] = s.fb[py.val][px.val])) ∧
        ((∃ (py : Fin 32) (px : Fin 64), sets px.val py.val ∧ s.fb[py.val][px.val] = true) → t.readV 15 = 1) ∧
        ((∀ (py : Fin 32) (px : Fin 64), sets px.val py.val → s.fb[py.val][px.val] = false) → t.readV 15 = 0) ∧
        (∀ k, k ≠ 15 → t.readV k = s.readV k) ∧ t.redraw = true ∧ t.pc = s.pc + 2 ∧
        t = { s with v := t.v, fb := t.fb, redraw := t.redraw, pc := t.pc } ∧ ∀ a, t.readByte a = s.readByte a)

/-- R192 once more, as its pseudocode has it (its `row[r][7-c]` with bit 7 the most significant, log entry 7): a draw that
completes leaves what the double loop leaves, pixel by pixel, collision included. -/
def Obligations.DrawIsThePixelLoop : Prop :=
  ∀ (x y : RegIdx) (n : Nat) (s t : State), s.core = .fetching → exec (.drw x y n) s = next t → t.core = .fetching →
    let rows := (List.range n).map fun r => s.readByte (s.i.toNat + r)
    let loop := drawLoop rows (s.readV x).toNat (s.readV y).toNat s.fb
    t.fb = loop.1 ∧ t.readV 15 = if loop.2 then 1 else 0

/-- R193's law of the XOR engine, with the flag R192 gives: the same sprite drawn twice at the same place, neither draw
faulting, X and Y not F, leaves the framebuffer as before; the first draw's VF is 1 iff some pixel under a set bit was
set, and the second's iff some pixel under a set bit was clear before the first draw (log entry 12; the bit order is log
entry 7). -/
def Obligations.DrawingTwiceRestoresTheScreen : Prop :=
  ∀ (x y : RegIdx) (n : Nat) (s t : State), x ≠ 15 → y ≠ 15 → s.core = .fetching →
    exec (.drw x y n) s = next t → t.core = .fetching →
    let sets (px py : Nat) : Prop := spriteSets s n (s.readV x).toNat (s.readV y).toNat px py
    (t.readV 15 = 1 ↔ ∃ (py : Fin 32) (px : Fin 64), sets px.val py.val ∧ s.fb[py.val][px.val] = true) ∧
    ∃ u, exec (.drw x y n) t = next u ∧ u.core = .fetching ∧ u.fb = s.fb ∧
      (u.readV 15 = 1 ↔ ∃ (py : Fin 32) (px : Fin 64), sets px.val py.val ∧ s.fb[py.val][px.val] = false)

/-- R193's sentence on the second draw's flag, as the rule words it: 1 iff the sprite has a set bit. It follows from R192
only where every pixel under the sprite was clear before the first draw, so this statement fails (log entry 12). -/
def Obligations.SecondDrawFlagAsTheLawWordsIt : Prop :=
  ∀ (x y : RegIdx) (n : Nat) (s t u : State), x ≠ 15 → y ≠ 15 → s.core = .fetching →
    exec (.drw x y n) s = next t → t.core = .fetching → exec (.drw x y n) t = next u → u.core = .fetching →
    (u.readV 15 = 1 ↔ ∃ r, r < n ∧ s.readByte (s.i.toNat + r) ≠ 0)

/-- R194: over every step, the framebuffer changes only by a CYCLE that runs 00E0 or DXYN, or by a RESET, which clears
it. -/
def Obligations.FramebufferChangesOnlyByClearAndDraw : Prop :=
  ∀ s t : State, step s = next t → t.fb ≠ s.fb →
    (s.core = .fetching ∧ (s.hostOps = [] ∨ ∃ rest, s.hostOps = .cycle :: rest) ∧
      (decodeWord s.opcodeAtPc = .ok .cls ∨ ∃ x y n, decodeWord s.opcodeAtPc = .ok (.drw x y n))) ∨
    (∃ image rest, s.hostOps = .reset image :: rest ∧ ∀ (y : Fin 32) (x : Fin 64), t.fb[y.val][x.val] = false)

/-! ## Keypad and timers -/

/-- R210 and R211: the key skips, and ADDR_KEY for an index above 0xF. -/
def Obligations.KeySkipsAddFourOrTwo : Prop :=
  ∀ (x : RegIdx) (s : State),
    let k := (s.readV x).toNat
    (Instr.skp x).hasPattern 0xE09E 0xF0FF ∧ (Instr.sknp x).hasPattern 0xE0A1 0xF0FF ∧
    (∀ _ : k ≤ 0xF,
      (∃ t, exec (.skp x) s = next t ∧ t.pc = (if s.key[k] then s.pc + 4 else s.pc + 2) ∧
        t = { s with pc := t.pc } ∧ ∀ a, t.readByte a = s.readByte a) ∧
      (∃ t, exec (.sknp x) s = next t ∧ t.pc = (if s.key[k] then s.pc + 2 else s.pc + 4) ∧
        t = { s with pc := t.pc } ∧ ∀ a, t.readByte a = s.readByte a)) ∧
    (k > 0xF →
      (∃ t, exec (.skp x) s = next t ∧
        FaultTaken s t .addrKey (BitVec.ofNat 16 (0xE09E + 0x100 * x.val)) (BitVec.ofNat 16 k)) ∧
      (∃ t, exec (.sknp x) s = next t ∧
        FaultTaken s t .addrKey (BitVec.ofNat 16 (0xE0A1 + 0x100 * x.val)) (BitVec.ofNat 16 k)))

/-- R212, R215 and R216: FX07 reads DT, FX15 and FX18 set DT and ST. -/
def Obligations.TimerRegisterMoves : Prop :=
  ∀ (x : RegIdx) (s : State),
    ((Instr.ldVxDt x).hasPattern 0xF007 0xF0FF ∧ ∃ t, exec (.ldVxDt x) s = next t ∧
      (∀ k, t.readV k = if k = x then s.dt else s.readV k) ∧ t.pc = s.pc + 2 ∧ t = { s with v := t.v, pc := t.pc } ∧
      ∀ a, t.readByte a = s.readByte a) ∧
    ((Instr.ldDtVx x).hasPattern 0xF015 0xF0FF ∧ ∃ t, exec (.ldDtVx x) s = next t ∧
      t.dt = s.readV x ∧ t.pc = s.pc + 2 ∧ t = { s with dt := t.dt, pc := t.pc } ∧
      ∀ a, t.readByte a = s.readByte a) ∧
    ((Instr.ldStVx x).hasPattern 0xF018 0xF0FF ∧ ∃ t, exec (.ldStVx x) s = next t ∧
      t.st = s.readV x ∧ t.pc = s.pc + 2 ∧ t = { s with st := t.st, pc := t.pc } ∧
      ∀ a, t.readByte a = s.readByte a)

/-- R213 and R217: FX0A in Fetching records a pressed key at once, or waits with pc unchanged. With the default
KEY_SELECT the key is the lowest; with a draw it is one of the pressed, and which one is a free value (log entry 5). -/
def Obligations.WaitForKeyCompletesOrWaits : Prop :=
  ∀ (x : RegIdx) (s : State),
    (Instr.ldVxK x).hasPattern 0xF00A 0xF0FF ∧
    ((∀ k : Fin 16, s.key[k.val] = false) → exec (.ldVxK x) s = next { s with core := .awaitingKey x }) ∧
    ((∃ k : Fin 16, s.key[k.val] = true) →
      ∃ (t : State) (k : Fin 16), exec (.ldVxK x) s = next t ∧ s.key[k.val] = true ∧
        (s.params.keySelect = .lowest → ∀ j : Fin 16, s.key[j.val] = true → k ≤ j) ∧
        (∀ j, (t.readV j).toNat = if j = x then k.val else (s.readV j).toNat) ∧ t.pc = s.pc + 2 ∧
        t = { s with v := t.v, pc := t.pc, keyDraws := t.keyDraws } ∧ ∀ a, t.readByte a = s.readByte a)

/-- R214, R108, R106: a CYCLE in AwaitingKey(x) polls and fetches nothing: with no key pressed nothing changes, else the
key goes to Vx, pc advances and the core is Fetching; in coupled mode one tick follows either way. -/
def Obligations.PollOfAWaitingCore : Prop :=
  ∀ (x : RegIdx) (s : State), s.cycles → s.core = .awaitingKey x →
    ∃ u, step s = next (if s.params.coupling = .coupled then u.tick else u) ∧
      ((∀ k : Fin 16, s.key[k.val] = false) → u = s) ∧
      ((∃ k : Fin 16, s.key[k.val] = true) →
        ∃ k : Fin 16, s.key[k.val] = true ∧
          (s.params.keySelect = .lowest → ∀ j : Fin 16, s.key[j.val] = true → k ≤ j) ∧
          (∀ j, (u.readV j).toNat = if j = x then k.val else (s.readV j).toNat) ∧ u.pc = s.pc + 2 ∧
          u = { s with v := u.v, pc := s.pc + 2, core := .fetching, keyDraws := u.keyDraws })

/-- R256, R214: only a poll that finds a pressed key, or a RESET, ends the wait. -/
def Obligations.OnlyAKeyOrResetEndsTheWait : Prop :=
  ∀ (x : RegIdx) (s t : State), s.core = .awaitingKey x → step s = next t → t.core ≠ .awaitingKey x →
    ((s.hostOps = [] ∨ ∃ rest, s.hostOps = .cycle :: rest) ∧ (∃ k : Fin 16, s.key[k.val] = true) ∧
      t.core = .fetching) ∨
    (∃ image rest, s.hostOps = .reset image :: rest ∧ image.length ≤ 3584)

/-- R243: the host's TICK. In coupled mode, where R246 has the host issue none, that it does the same is the model's choice
(log entry 8). -/
def Obligations.TickCountsBothTimersDown : Prop :=
  ∀ (s : State) (rest : List HostOp), s.hostOps = .tick :: rest → s.loadRejected = false →
    (s.core = .faulted → step s = next { s with hostOps := rest }) ∧
    (s.core ≠ .faulted → ∃ t, step s = next t ∧
      t.dt.toNat = s.dt.toNat - 1 ∧ t.st.toNat = s.st.toNat - 1 ∧
      t.events = (if s.st.toNat = 1 then s.events ++ [.toneRequest] else s.events) ∧
      t = { s with dt := t.dt, st := t.st, events := t.events, hostOps := rest })

/-- R244: after FX15 sets DT = n, the k-th TICK leaves n − k, and 0 from the n-th on. In coupled mode the TICKs rest on log
entry 8, the model's choice. -/
def Obligations.DelayTimerReachesZeroOnItsLastTick : Prop :=
  ∀ (x : RegIdx) (k : Nat) (rest : List HostOp) (s t : State), exec (.ldDtVx x) s = next t →
    s.core = .fetching → s.loadRejected = false → s.hostOps = List.replicate k .tick ++ rest →
    ∃ u, stepsThrough (fun q => q.core = .fetching) k t u ∧ u.hostOps = rest ∧
      u.dt.toNat = (s.readV x).toNat - k

/-- R245: after FX18 sets ST = n ≥ 1, k TICKs emit exactly one ToneRequest when k ≥ n and none when k < n; with n = 0 none
ever follows. In coupled mode the TICKs rest on log entry 8, the model's choice. -/
def Obligations.SoundTimerAsksForOneTone : Prop :=
  ∀ (x : RegIdx) (k : Nat) (rest : List HostOp) (s t : State), exec (.ldStVx x) s = next t →
    s.core = .fetching → s.loadRejected = false → s.hostOps = List.replicate k .tick ++ rest →
    let n := (s.readV x).toNat
    ∃ u, stepsThrough (fun q => q.core = .fetching) k t u ∧ u.hostOps = rest ∧ u.st.toNat = n - k ∧
      u.events = s.events ++ (if 1 ≤ n ∧ n ≤ k then [.toneRequest] else [])

/-- R106, R215 and R212 together: in coupled mode, FX15 with V[X] = n followed at once by FX07 reads what the one tick at
the end of the FX15 leaves, n − 1 (0 if n = 0). R280's number differs (log entry 19). -/
def Obligations.CoupledDelayReadsOneLess : Prop :=
  ∀ (x y : RegIdx) (s : State), s.cycles → s.core = .fetching → s.params.coupling = .coupled →
    s.pc.toNat ≤ 0xFFC → decodeWord s.opcodeAtPc = .ok (.ldDtVx x) →
    decodeWord { s with pc := s.pc + 2 }.opcodeAtPc = .ok (.ldVxDt y) →
    ∃ t u, step s = next t ∧ step t = next u ∧ (u.readV y).toNat = (s.readV x).toNat - 1 ∧
      u.dt.toNat = (s.readV x).toNat - 2

/-- R280's sentence, as the rule words it: FX07 at once after FX15 reads n − 2 if n ≥ 2, and 0 if n = 1. One tick comes
between them, as the rule itself says, so FX07 reads n − 1 and this statement fails (log entry 19). -/
def Obligations.CoupledDelayAsTheHazardRuleWordsIt : Prop :=
  ∀ (x y : RegIdx) (s t u : State), s.cycles → s.core = .fetching → s.params.coupling = .coupled →
    s.pc.toNat ≤ 0xFFC → decodeWord s.opcodeAtPc = .ok (.ldDtVx x) →
    decodeWord { s with pc := s.pc + 2 }.opcodeAtPc = .ok (.ldVxDt y) → 1 ≤ (s.readV x).toNat →
    step s = next t → step t = next u →
    (2 ≤ (s.readV x).toNat → (u.readV y).toNat = (s.readV x).toNat - 2) ∧
    ((s.readV x).toNat = 1 → (u.readV y).toNat = 0)

/-! ## Faults and events -/

/-- R231, R232, R236: each instruction raises exactly the fault its condition names, the first in order, with its number
and its detail, and otherwise leaves the latch alone. Which bit of a sprite row is off the screen, in ADDR_FB's condition,
is R191's and R192's, with bit 7 the leftmost, which is PRESUMED (log entry 7); that fault_opcode is the instruction's
encoding is DEDUCED (log entry 14). -/
def Obligations.FaultsAreThoseOfTheTable : Prop :=
  [FaultCode.noFault, .stackOverflow, .stackUnderflow, .addrFetch, .addrMem, .addrFb, .addrKey, .unknownOpcode].map
    FaultCode.number = [0, 1, 2, 3, 4, 5, 6, 7] ∧
  ∀ (i : Instr) (s : State), s.core = .fetching → ∃ t, exec i s = next t ∧
    (faultOf i s = .noFault → t.core ≠ .faulted ∧ t.latch = s.latch) ∧
    (faultOf i s ≠ .noFault → FaultTaken s t (faultOf i s) (encode i) (faultInfo (faultOf i s) i s))

/-- R233, R234: over every step, a fault raised changes the latch, the core state and the events, and nothing else; in
coupled mode no tick follows it. `s.nextOp.2` is `s` with the operation taken from the script. -/
def Obligations.FaultsArePrecise : Prop :=
  ∀ s t : State, step s = next t → s.core ≠ .faulted → t.core = .faulted →
    ∃ code op info, FaultTaken s.nextOp.2 t code op info ∧
      code ∈ [FaultCode.stackOverflow, .stackUnderflow, .addrFetch, .addrMem, .addrFb, .addrKey] ∧
      op = if code = .addrFetch then 0x0000 else s.opcodeAtPc

/-- R250: one step emits nothing, one event, or a DecodeReport and then a ToneRequest. -/
def Obligations.AStepEmitsAtMostTwoEventsInOrder : Prop :=
  ∀ s t : State, step s = next t →
    ∃ new, t.events = s.events ++ new ∧
      (new = [] ∨ new = [.toneRequest] ∨ (∃ pc op, new = [.decodeReport pc op]) ∨
        (∃ pc op, new = [.decodeReport pc op, .toneRequest]) ∨ (∃ code pc op info, new = [.fault code pc op info]))

/-- R283's last sentence, with R245 and R106: all the sound that a step can ask for is one ToneRequest, the step's last
event, where the step ticks and ST goes from 1 to 0: on a TICK with ST = 1, or in coupled mode in a CYCLE that does not
fault, with ST = 1 or an FX18 that sets it to 1. -/
def Obligations.TheOnlySoundIsAOneShotToneRequest : Prop :=
  ∀ s t : State, step s = next t →
    ∃ new, t.events = s.events ++ new ∧ new.count .toneRequest ≤ 1 ∧
      (.toneRequest ∈ new →
        new.getLast? = some .toneRequest ∧ t.st = 0 ∧ s.core ≠ .faulted ∧ t.core ≠ .faulted ∧
        ((s.nextOp.1 = .tick ∧ s.st = 1) ∨
          (s.nextOp.1 = .cycle ∧ s.params.coupling = .coupled ∧
            (s.st = 1 ∨ ∃ x, decodeWord s.opcodeAtPc = .ok (.ldStVx x) ∧ s.readV x = 1))))

/-! ## The host and reset -/

/-- R251, R252: what each operation but RESET does, whole: SET_KEYS, READ with whatever else it asks for, ACK_REDRAW, TICK,
and a scripted CYCLE, which is the CYCLE of an empty script. The model's choices in it: the script itself and the CYCLE of
an empty one (log entry 1), the list of answers (log entry 2), TICK in coupled mode (log entry 8), and in what form READ
asks and answers (log entry 20). -/
def Obligations.HostOperationsDoWhatTheTableSays : Prop :=
  ∀ (s : State) (rest : List HostOp),
    (∀ keys, s.hostOps = .setKeys keys :: rest → step s = next { s with key := keys, hostOps := rest }) ∧
    (∀ asked, s.hostOps = .read asked :: rest → ∃ r : ReadOut,
      step s = next { s with hostOps := rest, replies := s.replies ++ [.readOut r] } ∧
      r.fb = s.fb ∧ r.redraw = s.redraw ∧ r.core = s.core ∧ r.latch = s.latch ∧
      r.asked = asked.map fun e => (e, match e with
        | .v x => (s.readV x).toNat
        | .i => s.i.toNat
        | .pc => s.pc.toNat
        | .sp => s.sp.val
        | .stack k => s.stack[k.val].toNat
        | .dt => s.dt.toNat
        | .st => s.st.toNat
        | .key k => if s.key[k.val] = true then 1 else 0
        | .mem a => (s.readByte a.toNat).toNat)) ∧
    (s.hostOps = .ackRedraw :: rest → step s = next { s with redraw := false, hostOps := rest }) ∧
    (s.hostOps = .tick :: rest → s.loadRejected = false → step s = next { s.tick with hostOps := rest }) ∧
    (s.hostOps = .cycle :: rest → ∀ t, step { s with hostOps := [] } = next t →
      step s = next { t with hostOps := rest })

/-- R31, R34: no step changes the parameters, and the keys change only by SET_KEYS and RESET. -/
def Obligations.OnlySetKeysAndResetWriteTheKeypad : Prop :=
  ∀ s t : State, step s = next t → t.params = s.params ∧
    (t.key ≠ s.key →
      (∃ rest, s.hostOps = .setKeys t.key :: rest) ∨ (∃ image rest, s.hostOps = .reset image :: rest))

/-- R270, R274: RESET with an image of at most 3584 bytes sets every element of the core's state; the font region holds
FONT whatever the image. The host gets success (R251), and CYCLE and TICK may be issued again (R273). That the answer is
in `replies`, that `loadRejected` is the bit of a load fault, and that the draw counters stay are the model's (log
entries 2, 9 and 18). -/
def Obligations.ResetSetsEveryStateElement : Prop :=
  ∀ (s : State) (image : List Byte) (rest : List HostOp), s.hostOps = .reset image :: rest → image.length ≤ 3584 →
    ∃ t, step s = next t ∧
      (∀ d r : Nat, ∀ _ : d < 16, ∀ _ : r < 5, t.readByte (5 * d + r) = s.params.font[d][r]) ∧
      (∀ a, 0x050 ≤ a → a ≤ 0x1FF → t.readByte a = 0) ∧
      (∀ k, ∀ _ : k < image.length, t.readByte (0x200 + k) = image[k]) ∧
      (∀ a, 0x200 + image.length ≤ a → a ≤ 0xFFF → t.readByte a = 0) ∧
      (∀ k, t.readV k = 0) ∧ t.i = 0 ∧ t.pc = 0x200 ∧ t.sp.val = 0 ∧ (∀ k : Fin 16, t.stack[k.val] = 0) ∧
      t.dt = 0 ∧ t.st = 0 ∧ (∀ (y : Fin 32) (x : Fin 64), t.fb[y.val][x.val] = false) ∧ t.redraw = false ∧
      (∀ k : Fin 16, t.key[k.val] = false) ∧ t.core = .fetching ∧ t.latch = ⟨.noFault, 0, 0, 0⟩ ∧
      t.params = s.params ∧ t.events = s.events ∧ t.hostOps = rest ∧
      t.replies = s.replies ++ [.resetDone] ∧ t.loadRejected = false ∧
      t.randDraws = s.randDraws ∧ t.keyDraws = s.keyDraws

/-- R273: an image over 3584 bytes: the host gets LoadFault(L), and no state of the core changes. -/
def Obligations.OversizedImageIsRejectedWhole : Prop :=
  ∀ (s : State) (image : List Byte) (rest : List HostOp), s.hostOps = .reset image :: rest → 3584 < image.length →
    ∃ t, step s = next t ∧ t.replies = s.replies ++ [.loadFault image.length] ∧
      t = { s with hostOps := rest, replies := t.replies, loadRejected := true }

/-- Log entry 9, on 93_implementation_defined.md U15: after a load fault, CYCLE and TICK are refused. -/
def Obligations.CycleAndTickAreRefusedAfterALoadFault : Prop :=
  ∀ s : State, s.loadRejected = true →
    (s.hostOps = [] ∨ ∃ rest, s.hostOps = .cycle :: rest ∨ s.hostOps = .tick :: rest) →
    step s = .refused .afterLoadFault

/-- R37: State.reset is the reset state of the spec with an empty image and the default parameters of R8. That it holds
those is the model's choice (log entries 3 and 17); the default font bytes are PRESUMED (log entry 6). -/
def Obligations.ResetStateIsTheSpecs : Prop :=
  let s := State.reset
  (∀ d r : Nat, ∀ _ : d < 16, ∀ _ : r < 5, s.readByte (5 * d + r) = defaultFont[d][r]) ∧
  (∀ a, 0x050 ≤ a → a ≤ 0xFFF → s.readByte a = 0) ∧
  (∀ k, s.readV k = 0) ∧ s.i = 0 ∧ s.pc = 0x200 ∧ s.sp.val = 0 ∧ (∀ k : Fin 16, s.stack[k.val] = 0) ∧
  s.dt = 0 ∧ s.st = 0 ∧ (∀ (y : Fin 32) (x : Fin 64), s.fb[y.val][x.val] = false) ∧ s.redraw = false ∧
  (∀ k : Fin 16, s.key[k.val] = false) ∧ s.core = .fetching ∧ s.latch = ⟨.noFault, 0, 0, 0⟩ ∧
  s.params.coupling = .decoupled ∧ s.params.keySelect = .lowest

/-! ## The whole machine -/

/-- The invariant holds at reset. -/
def Obligations.ResetMeetsTheInvariant : Prop := State.reset.Inv

/-- Every step, of every host operation, keeps the invariant: memory canonical, the latch and Faulted together, pc at most
0x10FE (so pc never wraps, R24), return addresses fetchable, and a waiting core still at its FX0A (R32, R108). -/
def Obligations.EveryStepKeepsTheInvariant : Prop :=
  ∀ s t : State, s.Inv → step s = next t → t.Inv

/-- R26, R36: no program observes an entry at or above SP: of two states that differ only there and in the answers the
host has had, each step leads to states that differ only there and in the answers; and the answers differ only by a READ
that asks for such an entry, which R251 lets the host do (in the form of log entry 20). -/
def Obligations.StaleStackEntriesAreNeverObserved : Prop :=
  ∀ s s' t : State, s' = { s with stack := s'.stack, replies := s'.replies } →
    (∀ k : Fin 16, k.val < s.sp.val → s.stack[k.val] = s'.stack[k.val]) → step s = next t →
    ∃ t', step s' = next t' ∧ t' = { t with stack := t'.stack, replies := t'.replies } ∧
      (∀ k : Fin 16, k.val < t.sp.val → t.stack[k.val] = t'.stack[k.val]) ∧
      (s'.replies = s.replies → ¬ s.asksStale → t'.replies = t.replies)

/-- R28, R34: no program reads ST, redraw or the fault latch: an instruction does the same whatever they hold. -/
def Obligations.ProgramsNeverReadTheHostsState : Prop :=
  ∀ (i : Instr) (s s' t : State), s' = { s with st := s'.st, redraw := s'.redraw, latch := s'.latch } →
    exec i s = next t →
    ∃ t', exec i s' = next t' ∧ t' = { t with st := t'.st, redraw := t'.redraw, latch := t'.latch }
end

