-- ==== Sys2Proof/Laws/State.lean ====
section
/-! SUPPORT. What each update of State leaves in each field: one lemma per field per update, true by rfl, so that no later
proof unfolds a record update. -/

namespace Sys2Proof
namespace Machine

variable (s : State)

/-! ### writeV -/

@[simp] theorem State.writeV_v (x : RegIdx) (b : Byte) : (s.writeV x b).v = s.v.set x.val b := rfl
@[simp] theorem State.writeV_i (x : RegIdx) (b : Byte) : (s.writeV x b).i = s.i := rfl
@[simp] theorem State.writeV_pc (x : RegIdx) (b : Byte) : (s.writeV x b).pc = s.pc := rfl
@[simp] theorem State.writeV_sp (x : RegIdx) (b : Byte) : (s.writeV x b).sp = s.sp := rfl
@[simp] theorem State.writeV_stack (x : RegIdx) (b : Byte) : (s.writeV x b).stack = s.stack := rfl
@[simp] theorem State.writeV_dt (x : RegIdx) (b : Byte) : (s.writeV x b).dt = s.dt := rfl
@[simp] theorem State.writeV_st (x : RegIdx) (b : Byte) : (s.writeV x b).st = s.st := rfl
@[simp] theorem State.writeV_fb (x : RegIdx) (b : Byte) : (s.writeV x b).fb = s.fb := rfl
@[simp] theorem State.writeV_redraw (x : RegIdx) (b : Byte) : (s.writeV x b).redraw = s.redraw := rfl
@[simp] theorem State.writeV_key (x : RegIdx) (b : Byte) : (s.writeV x b).key = s.key := rfl
@[simp] theorem State.writeV_core (x : RegIdx) (b : Byte) : (s.writeV x b).core = s.core := rfl
@[simp] theorem State.writeV_latch (x : RegIdx) (b : Byte) : (s.writeV x b).latch = s.latch := rfl
@[simp] theorem State.writeV_mem (x : RegIdx) (b : Byte) : (s.writeV x b).mem = s.mem := rfl
@[simp] theorem State.writeV_params (x : RegIdx) (b : Byte) : (s.writeV x b).params = s.params := rfl
@[simp] theorem State.writeV_randDraws (x : RegIdx) (b : Byte) : (s.writeV x b).randDraws = s.randDraws := rfl
@[simp] theorem State.writeV_keyDraws (x : RegIdx) (b : Byte) : (s.writeV x b).keyDraws = s.keyDraws := rfl
@[simp] theorem State.writeV_hostOps (x : RegIdx) (b : Byte) : (s.writeV x b).hostOps = s.hostOps := rfl
@[simp] theorem State.writeV_events (x : RegIdx) (b : Byte) : (s.writeV x b).events = s.events := rfl
@[simp] theorem State.writeV_replies (x : RegIdx) (b : Byte) : (s.writeV x b).replies = s.replies := rfl
@[simp] theorem State.writeV_loadRejected (x : RegIdx) (b : Byte) : (s.writeV x b).loadRejected = s.loadRejected := rfl

/-! ### writeResultThenFlag -/

@[simp] theorem State.writeResultThenFlag_i (dest : RegIdx) (result flag : Byte) : (s.writeResultThenFlag dest result flag).i = s.i := rfl
@[simp] theorem State.writeResultThenFlag_pc (dest : RegIdx) (result flag : Byte) : (s.writeResultThenFlag dest result flag).pc = s.pc := rfl
@[simp] theorem State.writeResultThenFlag_sp (dest : RegIdx) (result flag : Byte) : (s.writeResultThenFlag dest result flag).sp = s.sp := rfl
@[simp] theorem State.writeResultThenFlag_stack (dest : RegIdx) (result flag : Byte) : (s.writeResultThenFlag dest result flag).stack = s.stack := rfl
@[simp] theorem State.writeResultThenFlag_dt (dest : RegIdx) (result flag : Byte) : (s.writeResultThenFlag dest result flag).dt = s.dt := rfl
@[simp] theorem State.writeResultThenFlag_st (dest : RegIdx) (result flag : Byte) : (s.writeResultThenFlag dest result flag).st = s.st := rfl
@[simp] theorem State.writeResultThenFlag_fb (dest : RegIdx) (result flag : Byte) : (s.writeResultThenFlag dest result flag).fb = s.fb := rfl
@[simp] theorem State.writeResultThenFlag_redraw (dest : RegIdx) (result flag : Byte) : (s.writeResultThenFlag dest result flag).redraw = s.redraw := rfl
@[simp] theorem State.writeResultThenFlag_key (dest : RegIdx) (result flag : Byte) : (s.writeResultThenFlag dest result flag).key = s.key := rfl
@[simp] theorem State.writeResultThenFlag_core (dest : RegIdx) (result flag : Byte) : (s.writeResultThenFlag dest result flag).core = s.core := rfl
@[simp] theorem State.writeResultThenFlag_latch (dest : RegIdx) (result flag : Byte) : (s.writeResultThenFlag dest result flag).latch = s.latch := rfl
@[simp] theorem State.writeResultThenFlag_mem (dest : RegIdx) (result flag : Byte) : (s.writeResultThenFlag dest result flag).mem = s.mem := rfl
@[simp] theorem State.writeResultThenFlag_params (dest : RegIdx) (result flag : Byte) : (s.writeResultThenFlag dest result flag).params = s.params := rfl
@[simp] theorem State.writeResultThenFlag_randDraws (dest : RegIdx) (result flag : Byte) : (s.writeResultThenFlag dest result flag).randDraws = s.randDraws := rfl
@[simp] theorem State.writeResultThenFlag_keyDraws (dest : RegIdx) (result flag : Byte) : (s.writeResultThenFlag dest result flag).keyDraws = s.keyDraws := rfl
@[simp] theorem State.writeResultThenFlag_hostOps (dest : RegIdx) (result flag : Byte) : (s.writeResultThenFlag dest result flag).hostOps = s.hostOps := rfl
@[simp] theorem State.writeResultThenFlag_events (dest : RegIdx) (result flag : Byte) : (s.writeResultThenFlag dest result flag).events = s.events := rfl
@[simp] theorem State.writeResultThenFlag_replies (dest : RegIdx) (result flag : Byte) : (s.writeResultThenFlag dest result flag).replies = s.replies := rfl
@[simp] theorem State.writeResultThenFlag_loadRejected (dest : RegIdx) (result flag : Byte) : (s.writeResultThenFlag dest result flag).loadRejected = s.loadRejected := rfl

/-! ### storeBytes -/

@[simp] theorem State.storeBytes_v (a : Nat) (bytes : List Byte) : (s.storeBytes a bytes).v = s.v := rfl
@[simp] theorem State.storeBytes_i (a : Nat) (bytes : List Byte) : (s.storeBytes a bytes).i = s.i := rfl
@[simp] theorem State.storeBytes_pc (a : Nat) (bytes : List Byte) : (s.storeBytes a bytes).pc = s.pc := rfl
@[simp] theorem State.storeBytes_sp (a : Nat) (bytes : List Byte) : (s.storeBytes a bytes).sp = s.sp := rfl
@[simp] theorem State.storeBytes_stack (a : Nat) (bytes : List Byte) : (s.storeBytes a bytes).stack = s.stack := rfl
@[simp] theorem State.storeBytes_dt (a : Nat) (bytes : List Byte) : (s.storeBytes a bytes).dt = s.dt := rfl
@[simp] theorem State.storeBytes_st (a : Nat) (bytes : List Byte) : (s.storeBytes a bytes).st = s.st := rfl
@[simp] theorem State.storeBytes_fb (a : Nat) (bytes : List Byte) : (s.storeBytes a bytes).fb = s.fb := rfl
@[simp] theorem State.storeBytes_redraw (a : Nat) (bytes : List Byte) : (s.storeBytes a bytes).redraw = s.redraw := rfl
@[simp] theorem State.storeBytes_key (a : Nat) (bytes : List Byte) : (s.storeBytes a bytes).key = s.key := rfl
@[simp] theorem State.storeBytes_core (a : Nat) (bytes : List Byte) : (s.storeBytes a bytes).core = s.core := rfl
@[simp] theorem State.storeBytes_latch (a : Nat) (bytes : List Byte) : (s.storeBytes a bytes).latch = s.latch := rfl
@[simp] theorem State.storeBytes_mem (a : Nat) (bytes : List Byte) : (s.storeBytes a bytes).mem = s.mem.store s.params.font a bytes := rfl
@[simp] theorem State.storeBytes_params (a : Nat) (bytes : List Byte) : (s.storeBytes a bytes).params = s.params := rfl
@[simp] theorem State.storeBytes_randDraws (a : Nat) (bytes : List Byte) : (s.storeBytes a bytes).randDraws = s.randDraws := rfl
@[simp] theorem State.storeBytes_keyDraws (a : Nat) (bytes : List Byte) : (s.storeBytes a bytes).keyDraws = s.keyDraws := rfl
@[simp] theorem State.storeBytes_hostOps (a : Nat) (bytes : List Byte) : (s.storeBytes a bytes).hostOps = s.hostOps := rfl
@[simp] theorem State.storeBytes_events (a : Nat) (bytes : List Byte) : (s.storeBytes a bytes).events = s.events := rfl
@[simp] theorem State.storeBytes_replies (a : Nat) (bytes : List Byte) : (s.storeBytes a bytes).replies = s.replies := rfl
@[simp] theorem State.storeBytes_loadRejected (a : Nat) (bytes : List Byte) : (s.storeBytes a bytes).loadRejected = s.loadRejected := rfl

/-! ### loadRegistersUpTo -/

@[simp] theorem State.loadRegistersUpTo_i (x : RegIdx) (a : Nat) : (s.loadRegistersUpTo x a).i = s.i := by simp only [State.loadRegistersUpTo]
@[simp] theorem State.loadRegistersUpTo_pc (x : RegIdx) (a : Nat) : (s.loadRegistersUpTo x a).pc = s.pc := by simp only [State.loadRegistersUpTo]
@[simp] theorem State.loadRegistersUpTo_sp (x : RegIdx) (a : Nat) : (s.loadRegistersUpTo x a).sp = s.sp := by simp only [State.loadRegistersUpTo]
@[simp] theorem State.loadRegistersUpTo_stack (x : RegIdx) (a : Nat) : (s.loadRegistersUpTo x a).stack = s.stack := by simp only [State.loadRegistersUpTo]
@[simp] theorem State.loadRegistersUpTo_dt (x : RegIdx) (a : Nat) : (s.loadRegistersUpTo x a).dt = s.dt := by simp only [State.loadRegistersUpTo]
@[simp] theorem State.loadRegistersUpTo_st (x : RegIdx) (a : Nat) : (s.loadRegistersUpTo x a).st = s.st := by simp only [State.loadRegistersUpTo]
@[simp] theorem State.loadRegistersUpTo_fb (x : RegIdx) (a : Nat) : (s.loadRegistersUpTo x a).fb = s.fb := by simp only [State.loadRegistersUpTo]
@[simp] theorem State.loadRegistersUpTo_redraw (x : RegIdx) (a : Nat) : (s.loadRegistersUpTo x a).redraw = s.redraw := by simp only [State.loadRegistersUpTo]
@[simp] theorem State.loadRegistersUpTo_key (x : RegIdx) (a : Nat) : (s.loadRegistersUpTo x a).key = s.key := by simp only [State.loadRegistersUpTo]
@[simp] theorem State.loadRegistersUpTo_core (x : RegIdx) (a : Nat) : (s.loadRegistersUpTo x a).core = s.core := by simp only [State.loadRegistersUpTo]
@[simp] theorem State.loadRegistersUpTo_latch (x : RegIdx) (a : Nat) : (s.loadRegistersUpTo x a).latch = s.latch := by simp only [State.loadRegistersUpTo]
@[simp] theorem State.loadRegistersUpTo_mem (x : RegIdx) (a : Nat) : (s.loadRegistersUpTo x a).mem = s.mem := by simp only [State.loadRegistersUpTo]
@[simp] theorem State.loadRegistersUpTo_params (x : RegIdx) (a : Nat) : (s.loadRegistersUpTo x a).params = s.params := by simp only [State.loadRegistersUpTo]
@[simp] theorem State.loadRegistersUpTo_randDraws (x : RegIdx) (a : Nat) : (s.loadRegistersUpTo x a).randDraws = s.randDraws := by simp only [State.loadRegistersUpTo]
@[simp] theorem State.loadRegistersUpTo_keyDraws (x : RegIdx) (a : Nat) : (s.loadRegistersUpTo x a).keyDraws = s.keyDraws := by simp only [State.loadRegistersUpTo]
@[simp] theorem State.loadRegistersUpTo_hostOps (x : RegIdx) (a : Nat) : (s.loadRegistersUpTo x a).hostOps = s.hostOps := by simp only [State.loadRegistersUpTo]
@[simp] theorem State.loadRegistersUpTo_events (x : RegIdx) (a : Nat) : (s.loadRegistersUpTo x a).events = s.events := by simp only [State.loadRegistersUpTo]
@[simp] theorem State.loadRegistersUpTo_replies (x : RegIdx) (a : Nat) : (s.loadRegistersUpTo x a).replies = s.replies := by simp only [State.loadRegistersUpTo]
@[simp] theorem State.loadRegistersUpTo_loadRejected (x : RegIdx) (a : Nat) : (s.loadRegistersUpTo x a).loadRejected = s.loadRejected := by simp only [State.loadRegistersUpTo]

/-! ### advance -/

@[simp] theorem State.advance_v : (s.advance).v = s.v := rfl
@[simp] theorem State.advance_i : (s.advance).i = s.i := rfl
@[simp] theorem State.advance_pc : (s.advance).pc = s.pc + 2 := rfl
@[simp] theorem State.advance_sp : (s.advance).sp = s.sp := rfl
@[simp] theorem State.advance_stack : (s.advance).stack = s.stack := rfl
@[simp] theorem State.advance_dt : (s.advance).dt = s.dt := rfl
@[simp] theorem State.advance_st : (s.advance).st = s.st := rfl
@[simp] theorem State.advance_fb : (s.advance).fb = s.fb := rfl
@[simp] theorem State.advance_redraw : (s.advance).redraw = s.redraw := rfl
@[simp] theorem State.advance_key : (s.advance).key = s.key := rfl
@[simp] theorem State.advance_core : (s.advance).core = s.core := rfl
@[simp] theorem State.advance_latch : (s.advance).latch = s.latch := rfl
@[simp] theorem State.advance_mem : (s.advance).mem = s.mem := rfl
@[simp] theorem State.advance_params : (s.advance).params = s.params := rfl
@[simp] theorem State.advance_randDraws : (s.advance).randDraws = s.randDraws := rfl
@[simp] theorem State.advance_keyDraws : (s.advance).keyDraws = s.keyDraws := rfl
@[simp] theorem State.advance_hostOps : (s.advance).hostOps = s.hostOps := rfl
@[simp] theorem State.advance_events : (s.advance).events = s.events := rfl
@[simp] theorem State.advance_replies : (s.advance).replies = s.replies := rfl
@[simp] theorem State.advance_loadRejected : (s.advance).loadRejected = s.loadRejected := rfl

/-! ### skipIf -/

@[simp] theorem State.skipIf_v (c : Bool) : (s.skipIf c).v = s.v := rfl
@[simp] theorem State.skipIf_i (c : Bool) : (s.skipIf c).i = s.i := rfl
@[simp] theorem State.skipIf_pc (c : Bool) : (s.skipIf c).pc = if c then s.pc + 4 else s.pc + 2 := rfl
@[simp] theorem State.skipIf_sp (c : Bool) : (s.skipIf c).sp = s.sp := rfl
@[simp] theorem State.skipIf_stack (c : Bool) : (s.skipIf c).stack = s.stack := rfl
@[simp] theorem State.skipIf_dt (c : Bool) : (s.skipIf c).dt = s.dt := rfl
@[simp] theorem State.skipIf_st (c : Bool) : (s.skipIf c).st = s.st := rfl
@[simp] theorem State.skipIf_fb (c : Bool) : (s.skipIf c).fb = s.fb := rfl
@[simp] theorem State.skipIf_redraw (c : Bool) : (s.skipIf c).redraw = s.redraw := rfl
@[simp] theorem State.skipIf_key (c : Bool) : (s.skipIf c).key = s.key := rfl
@[simp] theorem State.skipIf_core (c : Bool) : (s.skipIf c).core = s.core := rfl
@[simp] theorem State.skipIf_latch (c : Bool) : (s.skipIf c).latch = s.latch := rfl
@[simp] theorem State.skipIf_mem (c : Bool) : (s.skipIf c).mem = s.mem := rfl
@[simp] theorem State.skipIf_params (c : Bool) : (s.skipIf c).params = s.params := rfl
@[simp] theorem State.skipIf_randDraws (c : Bool) : (s.skipIf c).randDraws = s.randDraws := rfl
@[simp] theorem State.skipIf_keyDraws (c : Bool) : (s.skipIf c).keyDraws = s.keyDraws := rfl
@[simp] theorem State.skipIf_hostOps (c : Bool) : (s.skipIf c).hostOps = s.hostOps := rfl
@[simp] theorem State.skipIf_events (c : Bool) : (s.skipIf c).events = s.events := rfl
@[simp] theorem State.skipIf_replies (c : Bool) : (s.skipIf c).replies = s.replies := rfl
@[simp] theorem State.skipIf_loadRejected (c : Bool) : (s.skipIf c).loadRejected = s.loadRejected := rfl

/-! ### jump -/

@[simp] theorem State.jump_v (target : Word) : (s.jump target).v = s.v := rfl
@[simp] theorem State.jump_i (target : Word) : (s.jump target).i = s.i := rfl
@[simp] theorem State.jump_pc (target : Word) : (s.jump target).pc = target := rfl
@[simp] theorem State.jump_sp (target : Word) : (s.jump target).sp = s.sp := rfl
@[simp] theorem State.jump_stack (target : Word) : (s.jump target).stack = s.stack := rfl
@[simp] theorem State.jump_dt (target : Word) : (s.jump target).dt = s.dt := rfl
@[simp] theorem State.jump_st (target : Word) : (s.jump target).st = s.st := rfl
@[simp] theorem State.jump_fb (target : Word) : (s.jump target).fb = s.fb := rfl
@[simp] theorem State.jump_redraw (target : Word) : (s.jump target).redraw = s.redraw := rfl
@[simp] theorem State.jump_key (target : Word) : (s.jump target).key = s.key := rfl
@[simp] theorem State.jump_core (target : Word) : (s.jump target).core = s.core := rfl
@[simp] theorem State.jump_latch (target : Word) : (s.jump target).latch = s.latch := rfl
@[simp] theorem State.jump_mem (target : Word) : (s.jump target).mem = s.mem := rfl
@[simp] theorem State.jump_params (target : Word) : (s.jump target).params = s.params := rfl
@[simp] theorem State.jump_randDraws (target : Word) : (s.jump target).randDraws = s.randDraws := rfl
@[simp] theorem State.jump_keyDraws (target : Word) : (s.jump target).keyDraws = s.keyDraws := rfl
@[simp] theorem State.jump_hostOps (target : Word) : (s.jump target).hostOps = s.hostOps := rfl
@[simp] theorem State.jump_events (target : Word) : (s.jump target).events = s.events := rfl
@[simp] theorem State.jump_replies (target : Word) : (s.jump target).replies = s.replies := rfl
@[simp] theorem State.jump_loadRejected (target : Word) : (s.jump target).loadRejected = s.loadRejected := rfl

/-! ### pushPc -/

@[simp] theorem State.pushPc_v (h : s.sp.val < 16) : (s.pushPc h).v = s.v := rfl
@[simp] theorem State.pushPc_i (h : s.sp.val < 16) : (s.pushPc h).i = s.i := rfl
@[simp] theorem State.pushPc_pc (h : s.sp.val < 16) : (s.pushPc h).pc = s.pc := rfl
@[simp] theorem State.pushPc_sp (h : s.sp.val < 16) : (s.pushPc h).sp = ⟨s.sp.val + 1, by omega⟩ := rfl
@[simp] theorem State.pushPc_stack (h : s.sp.val < 16) : (s.pushPc h).stack = s.stack.set s.sp.val s.pc := rfl
@[simp] theorem State.pushPc_dt (h : s.sp.val < 16) : (s.pushPc h).dt = s.dt := rfl
@[simp] theorem State.pushPc_st (h : s.sp.val < 16) : (s.pushPc h).st = s.st := rfl
@[simp] theorem State.pushPc_fb (h : s.sp.val < 16) : (s.pushPc h).fb = s.fb := rfl
@[simp] theorem State.pushPc_redraw (h : s.sp.val < 16) : (s.pushPc h).redraw = s.redraw := rfl
@[simp] theorem State.pushPc_key (h : s.sp.val < 16) : (s.pushPc h).key = s.key := rfl
@[simp] theorem State.pushPc_core (h : s.sp.val < 16) : (s.pushPc h).core = s.core := rfl
@[simp] theorem State.pushPc_latch (h : s.sp.val < 16) : (s.pushPc h).latch = s.latch := rfl
@[simp] theorem State.pushPc_mem (h : s.sp.val < 16) : (s.pushPc h).mem = s.mem := rfl
@[simp] theorem State.pushPc_params (h : s.sp.val < 16) : (s.pushPc h).params = s.params := rfl
@[simp] theorem State.pushPc_randDraws (h : s.sp.val < 16) : (s.pushPc h).randDraws = s.randDraws := rfl
@[simp] theorem State.pushPc_keyDraws (h : s.sp.val < 16) : (s.pushPc h).keyDraws = s.keyDraws := rfl
@[simp] theorem State.pushPc_hostOps (h : s.sp.val < 16) : (s.pushPc h).hostOps = s.hostOps := rfl
@[simp] theorem State.pushPc_events (h : s.sp.val < 16) : (s.pushPc h).events = s.events := rfl
@[simp] theorem State.pushPc_replies (h : s.sp.val < 16) : (s.pushPc h).replies = s.replies := rfl
@[simp] theorem State.pushPc_loadRejected (h : s.sp.val < 16) : (s.pushPc h).loadRejected = s.loadRejected := rfl

/-! ### popReturn -/

@[simp] theorem State.popReturn_v : (s.popReturn).v = s.v := rfl
@[simp] theorem State.popReturn_i : (s.popReturn).i = s.i := rfl
@[simp] theorem State.popReturn_pc : (s.popReturn).pc = s.stack[s.sp.val - 1] + 2 := rfl
@[simp] theorem State.popReturn_sp : (s.popReturn).sp = ⟨s.sp.val - 1, by omega⟩ := rfl
@[simp] theorem State.popReturn_stack : (s.popReturn).stack = s.stack := rfl
@[simp] theorem State.popReturn_dt : (s.popReturn).dt = s.dt := rfl
@[simp] theorem State.popReturn_st : (s.popReturn).st = s.st := rfl
@[simp] theorem State.popReturn_fb : (s.popReturn).fb = s.fb := rfl
@[simp] theorem State.popReturn_redraw : (s.popReturn).redraw = s.redraw := rfl
@[simp] theorem State.popReturn_key : (s.popReturn).key = s.key := rfl
@[simp] theorem State.popReturn_core : (s.popReturn).core = s.core := rfl
@[simp] theorem State.popReturn_latch : (s.popReturn).latch = s.latch := rfl
@[simp] theorem State.popReturn_mem : (s.popReturn).mem = s.mem := rfl
@[simp] theorem State.popReturn_params : (s.popReturn).params = s.params := rfl
@[simp] theorem State.popReturn_randDraws : (s.popReturn).randDraws = s.randDraws := rfl
@[simp] theorem State.popReturn_keyDraws : (s.popReturn).keyDraws = s.keyDraws := rfl
@[simp] theorem State.popReturn_hostOps : (s.popReturn).hostOps = s.hostOps := rfl
@[simp] theorem State.popReturn_events : (s.popReturn).events = s.events := rfl
@[simp] theorem State.popReturn_replies : (s.popReturn).replies = s.replies := rfl
@[simp] theorem State.popReturn_loadRejected : (s.popReturn).loadRejected = s.loadRejected := rfl

/-! ### raiseFault -/

@[simp] theorem State.raiseFault_v (code : FaultCode) (op info : Word) : (s.raiseFault code op info).v = s.v := rfl
@[simp] theorem State.raiseFault_i (code : FaultCode) (op info : Word) : (s.raiseFault code op info).i = s.i := rfl
@[simp] theorem State.raiseFault_pc (code : FaultCode) (op info : Word) : (s.raiseFault code op info).pc = s.pc := rfl
@[simp] theorem State.raiseFault_sp (code : FaultCode) (op info : Word) : (s.raiseFault code op info).sp = s.sp := rfl
@[simp] theorem State.raiseFault_stack (code : FaultCode) (op info : Word) : (s.raiseFault code op info).stack = s.stack := rfl
@[simp] theorem State.raiseFault_dt (code : FaultCode) (op info : Word) : (s.raiseFault code op info).dt = s.dt := rfl
@[simp] theorem State.raiseFault_st (code : FaultCode) (op info : Word) : (s.raiseFault code op info).st = s.st := rfl
@[simp] theorem State.raiseFault_fb (code : FaultCode) (op info : Word) : (s.raiseFault code op info).fb = s.fb := rfl
@[simp] theorem State.raiseFault_redraw (code : FaultCode) (op info : Word) : (s.raiseFault code op info).redraw = s.redraw := rfl
@[simp] theorem State.raiseFault_key (code : FaultCode) (op info : Word) : (s.raiseFault code op info).key = s.key := rfl
@[simp] theorem State.raiseFault_core (code : FaultCode) (op info : Word) : (s.raiseFault code op info).core = .faulted := rfl
@[simp] theorem State.raiseFault_latch (code : FaultCode) (op info : Word) : (s.raiseFault code op info).latch = ⟨code, s.pc, if code = .addrFetch then 0x0000 else op, info⟩ := rfl
@[simp] theorem State.raiseFault_mem (code : FaultCode) (op info : Word) : (s.raiseFault code op info).mem = s.mem := rfl
@[simp] theorem State.raiseFault_params (code : FaultCode) (op info : Word) : (s.raiseFault code op info).params = s.params := rfl
@[simp] theorem State.raiseFault_randDraws (code : FaultCode) (op info : Word) : (s.raiseFault code op info).randDraws = s.randDraws := rfl
@[simp] theorem State.raiseFault_keyDraws (code : FaultCode) (op info : Word) : (s.raiseFault code op info).keyDraws = s.keyDraws := rfl
@[simp] theorem State.raiseFault_hostOps (code : FaultCode) (op info : Word) : (s.raiseFault code op info).hostOps = s.hostOps := rfl
@[simp] theorem State.raiseFault_events (code : FaultCode) (op info : Word) : (s.raiseFault code op info).events = s.events ++ [.fault code s.pc (if code = .addrFetch then 0x0000 else op) info] := rfl
@[simp] theorem State.raiseFault_replies (code : FaultCode) (op info : Word) : (s.raiseFault code op info).replies = s.replies := rfl
@[simp] theorem State.raiseFault_loadRejected (code : FaultCode) (op info : Word) : (s.raiseFault code op info).loadRejected = s.loadRejected := rfl

/-! ### emit -/

@[simp] theorem State.emit_v (e : Event) : (s.emit e).v = s.v := rfl
@[simp] theorem State.emit_i (e : Event) : (s.emit e).i = s.i := rfl
@[simp] theorem State.emit_pc (e : Event) : (s.emit e).pc = s.pc := rfl
@[simp] theorem State.emit_sp (e : Event) : (s.emit e).sp = s.sp := rfl
@[simp] theorem State.emit_stack (e : Event) : (s.emit e).stack = s.stack := rfl
@[simp] theorem State.emit_dt (e : Event) : (s.emit e).dt = s.dt := rfl
@[simp] theorem State.emit_st (e : Event) : (s.emit e).st = s.st := rfl
@[simp] theorem State.emit_fb (e : Event) : (s.emit e).fb = s.fb := rfl
@[simp] theorem State.emit_redraw (e : Event) : (s.emit e).redraw = s.redraw := rfl
@[simp] theorem State.emit_key (e : Event) : (s.emit e).key = s.key := rfl
@[simp] theorem State.emit_core (e : Event) : (s.emit e).core = s.core := rfl
@[simp] theorem State.emit_latch (e : Event) : (s.emit e).latch = s.latch := rfl
@[simp] theorem State.emit_mem (e : Event) : (s.emit e).mem = s.mem := rfl
@[simp] theorem State.emit_params (e : Event) : (s.emit e).params = s.params := rfl
@[simp] theorem State.emit_randDraws (e : Event) : (s.emit e).randDraws = s.randDraws := rfl
@[simp] theorem State.emit_keyDraws (e : Event) : (s.emit e).keyDraws = s.keyDraws := rfl
@[simp] theorem State.emit_hostOps (e : Event) : (s.emit e).hostOps = s.hostOps := rfl
@[simp] theorem State.emit_events (e : Event) : (s.emit e).events = s.events ++ [e] := rfl
@[simp] theorem State.emit_replies (e : Event) : (s.emit e).replies = s.replies := rfl
@[simp] theorem State.emit_loadRejected (e : Event) : (s.emit e).loadRejected = s.loadRejected := rfl

/-! ### countRandDraw -/

@[simp] theorem State.countRandDraw_v : (s.countRandDraw).v = s.v := rfl
@[simp] theorem State.countRandDraw_i : (s.countRandDraw).i = s.i := rfl
@[simp] theorem State.countRandDraw_pc : (s.countRandDraw).pc = s.pc := rfl
@[simp] theorem State.countRandDraw_sp : (s.countRandDraw).sp = s.sp := rfl
@[simp] theorem State.countRandDraw_stack : (s.countRandDraw).stack = s.stack := rfl
@[simp] theorem State.countRandDraw_dt : (s.countRandDraw).dt = s.dt := rfl
@[simp] theorem State.countRandDraw_st : (s.countRandDraw).st = s.st := rfl
@[simp] theorem State.countRandDraw_fb : (s.countRandDraw).fb = s.fb := rfl
@[simp] theorem State.countRandDraw_redraw : (s.countRandDraw).redraw = s.redraw := rfl
@[simp] theorem State.countRandDraw_key : (s.countRandDraw).key = s.key := rfl
@[simp] theorem State.countRandDraw_core : (s.countRandDraw).core = s.core := rfl
@[simp] theorem State.countRandDraw_latch : (s.countRandDraw).latch = s.latch := rfl
@[simp] theorem State.countRandDraw_mem : (s.countRandDraw).mem = s.mem := rfl
@[simp] theorem State.countRandDraw_params : (s.countRandDraw).params = s.params := rfl
@[simp] theorem State.countRandDraw_randDraws : (s.countRandDraw).randDraws = s.randDraws + 1 := rfl
@[simp] theorem State.countRandDraw_keyDraws : (s.countRandDraw).keyDraws = s.keyDraws := rfl
@[simp] theorem State.countRandDraw_hostOps : (s.countRandDraw).hostOps = s.hostOps := rfl
@[simp] theorem State.countRandDraw_events : (s.countRandDraw).events = s.events := rfl
@[simp] theorem State.countRandDraw_replies : (s.countRandDraw).replies = s.replies := rfl
@[simp] theorem State.countRandDraw_loadRejected : (s.countRandDraw).loadRejected = s.loadRejected := rfl

end Machine
end Sys2Proof
end

