-- ==== Sys2Proof/Laws/Memory.lean ====
section
/-! SUPPORT. Memory: a read after a write, a write leaves every other address alone, every operation keeps the canonical
form, and canonical memories that read alike are equal. -/

namespace Sys2Proof
namespace Machine

variable {font : Font}

/-! ### Reads after writes -/

theorem Memory.lookup_insert (m : Memory) (a a' : Nat) (b : Byte) :
    (m.insert a b).lookup a' = if a' = a then some b else m.lookup a' := by
  induction m with
  | nil => by_cases h : a' = a <;> simp [Memory.insert, Memory.lookup, h]
  | cons c rest ih =>
    obtain ⟨k, c⟩ := c
    simp only [Memory.insert]
    split
    · by_cases h : a' = a <;> simp [Memory.lookup, h]
    · split
      · subst k
        by_cases h : a' = a <;> simp [Memory.lookup, h]
      · by_cases h : a' = k
        · subst h
          have : a' ≠ a := by omega
          simp [Memory.lookup, this]
        · simp [Memory.lookup, h, ih]

theorem Memory.lookup_erase (m : Memory) (a a' : Nat) :
    (m.erase a).lookup a' = if a' = a then none else m.lookup a' := by
  induction m with
  | nil => simp [Memory.erase, Memory.lookup]
  | cons c rest ih =>
    obtain ⟨k, c⟩ := c
    simp only [Memory.erase] at ih
    by_cases hk : k = a
    · subst k
      by_cases h : a' = a
      · subst h; simpa [Memory.erase] using ih
      · simpa [Memory.erase, Memory.lookup, h] using ih
    · by_cases h : a' = k
      · subst h; simp [Memory.erase, Memory.lookup, hk]
      · simp [Memory.erase, Memory.lookup, hk, h, ih]

/-- A read after a write: the written byte at its address, the old byte at every other. -/
theorem Memory.read_write (m : Memory) (a a' : Nat) (b : Byte) :
    (m.write font a b).read font a' = if a' = a then b else m.read font a' := by
  unfold Memory.write Memory.read
  split
  · rename_i hb
    rw [Memory.lookup_erase]
    by_cases h : a' = a
    · subst h; simp [hb]
    · simp [h]
  · rw [Memory.lookup_insert]
    by_cases h : a' = a <;> simp [h]

/-- A read after a store: the stored bytes inside their range, the old byte everywhere else. -/
theorem Memory.read_store (m : Memory) (a a' : Nat) (bytes : List Byte) :
    (m.store font a bytes).read font a' =
      if h : a ≤ a' ∧ a' - a < bytes.length then bytes[a' - a] else m.read font a' := by
  induction bytes generalizing m a with
  | nil => simp [Memory.store]
  | cons b bytes ih =>
    rw [Memory.store, ih, Memory.read_write]
    by_cases h1 : a' = a
    · subst h1
      simp
    · by_cases h2 : a + 1 ≤ a' ∧ a' - (a + 1) < bytes.length
      · have h3 : a ≤ a' ∧ a' - a < (b :: bytes).length := by simp only [List.length_cons]; omega
        have h4 : a' - a = (a' - (a + 1)) + 1 := by omega
        rw [dif_pos h2, dif_pos h3]
        simp [h4]
      · have h3 : ¬ (a ≤ a' ∧ a' - a < (b :: bytes).length) := by simp only [List.length_cons]; omega
        rw [dif_neg h2, dif_neg h3, if_neg h1]

theorem Memory.read_store_outside (m : Memory) (a a' : Nat) (bytes : List Byte)
    (h : a' < a ∨ a + bytes.length ≤ a') : (m.store font a bytes).read font a' = m.read font a' := by
  rw [Memory.read_store, dif_neg (by omega)]

@[simp] theorem Memory.length_load (m : Memory) (a n : Nat) : (m.load font a n).length = n := by
  simp [Memory.load]

@[simp] theorem Memory.getElem_load (m : Memory) (a n k : Nat) (h : k < (m.load font a n).length) :
    (m.load font a n)[k] = m.read font (a + k) := by
  simp [Memory.load]

@[simp] theorem State.readByte_storeBytes (s : State) (a a' : Nat) (bytes : List Byte) :
    (s.storeBytes a bytes).readByte a' =
      if h : a ≤ a' ∧ a' - a < bytes.length then bytes[a' - a] else s.readByte a' :=
  Memory.read_store ..

/-! ### The canonical form -/

theorem Memory.wf_cons (a : Nat) (b : Byte) (rest : Memory) :
    Memory.wf font ((a, b) :: rest) = true ↔
      a < memSize ∧ b ≠ unlisted font a ∧ (∀ c ∈ rest, a < c.1) ∧ Memory.wf font rest = true := by
  simp [Memory.wf, and_assoc]

theorem Memory.insert_above (k a : Nat) (b : Byte) (m : Memory) (hk : k < a) (hm : ∀ c ∈ m, k < c.1) :
    ∀ c ∈ m.insert a b, k < c.1 := by
  induction m with
  | nil => simpa [Memory.insert] using hk
  | cons c rest ih =>
    obtain ⟨k', c'⟩ := c
    have ih := ih fun d hd => hm d (List.mem_cons_of_mem _ hd)
    have hk' : k < k' := hm (k', c') (by simp)
    have hrest : ∀ d ∈ rest, k < d.1 := fun d hd => hm d (List.mem_cons_of_mem _ hd)
    unfold Memory.insert
    split
    · intro d hd
      rcases List.mem_cons.mp hd with rfl | hd
      · exact hk
      · exact hm d hd
    · split
      · intro d hd
        rcases List.mem_cons.mp hd with rfl | hd
        · exact hk
        · exact hrest d hd
      · intro d hd
        rcases List.mem_cons.mp hd with rfl | hd
        · exact hk'
        · exact ih d hd

theorem Memory.wf_insert (m : Memory) (a : Nat) (b : Byte) (ha : a < memSize) (hb : b ≠ unlisted font a)
    (hm : m.wf font = true) : (m.insert a b).wf font = true := by
  induction m with
  | nil => simp [Memory.insert, Memory.wf, ha, hb]
  | cons c rest ih =>
    obtain ⟨k, c⟩ := c
    obtain ⟨hk, hc, habove, hrest⟩ := (Memory.wf_cons ..).mp hm
    unfold Memory.insert
    split
    · rename_i hlt
      refine (Memory.wf_cons ..).mpr ⟨ha, hb, ?_, hm⟩
      intro d hd
      rcases List.mem_cons.mp hd with rfl | hd
      · exact hlt
      · exact hlt.trans (habove d hd)
    · split
      · subst k
        exact (Memory.wf_cons ..).mpr ⟨ha, hb, habove, hrest⟩
      · exact (Memory.wf_cons ..).mpr
          ⟨hk, hc, Memory.insert_above k a b rest (by omega) habove, ih hrest⟩

theorem Memory.wf_erase (m : Memory) (a : Nat) (hm : m.wf font = true) : (m.erase a).wf font = true := by
  induction m with
  | nil => rfl
  | cons c rest ih =>
    obtain ⟨k, c⟩ := c
    obtain ⟨hk, hc, habove, hrest⟩ := (Memory.wf_cons ..).mp hm
    have ih := ih hrest
    unfold Memory.erase at ih ⊢
    rw [List.filter_cons]
    split
    · exact (Memory.wf_cons ..).mpr ⟨hk, hc, fun d hd => habove d (List.mem_of_mem_filter hd), ih⟩
    · exact ih

/-- A write inside memory keeps the canonical form. -/
theorem Memory.wf_write (m : Memory) (a : Nat) (b : Byte) (ha : a < memSize) (hm : m.wf font = true) :
    (m.write font a b).wf font = true := by
  unfold Memory.write
  split
  · exact Memory.wf_erase m a hm
  · rename_i hb
    exact Memory.wf_insert m a b ha hb hm

/-- A store inside memory keeps the canonical form. -/
theorem Memory.wf_store (m : Memory) (a : Nat) (bytes : List Byte) (ha : a + bytes.length ≤ memSize)
    (hm : m.wf font = true) : (m.store font a bytes).wf font = true := by
  induction bytes generalizing m a with
  | nil => exact hm
  | cons b bytes ih =>
    simp only [List.length_cons] at ha
    exact ih _ (a + 1) (by omega) (Memory.wf_write m a b (by omega) hm)

theorem loadedMemory_wf (font : Font) (image : List Byte) (h : imageFits image = true) :
    (loadedMemory font image).wf font = true := by
  refine Memory.wf_store [] progBase image ?_ rfl
  simp only [imageFits, decide_eq_true_eq] at h
  simp only [progBase, progMax, memSize] at *
  omega

/-- Reset's memory is canonical. -/
theorem reset_mem_wf : State.reset.mem.wf State.reset.params.font = true := rfl

/-! ### Equal memories are equal data -/

theorem Memory.lookup_eq_none (m : Memory) (a : Nat) (h : ∀ c ∈ m, a < c.1) : m.lookup a = none := by
  induction m with
  | nil => rfl
  | cons c rest ih =>
    obtain ⟨k, c⟩ := c
    have hk : a < k := h (k, c) (by simp)
    rw [Memory.lookup, if_neg (by omega)]
    exact ih fun d hd => h d (List.mem_cons_of_mem _ hd)

theorem Memory.read_of_above (m : Memory) (a : Nat) (h : ∀ c ∈ m, a < c.1) :
    m.read font a = unlisted font a := by
  simp [Memory.read, Memory.lookup_eq_none m a h]

theorem Memory.read_head (a : Nat) (b : Byte) (rest : Memory) :
    Memory.read font ((a, b) :: rest) a = b := by
  simp [Memory.read, Memory.lookup]

theorem Memory.read_tail (a a' : Nat) (b : Byte) (rest : Memory) (h : a' ≠ a) :
    Memory.read font ((a, b) :: rest) a' = Memory.read font rest a' := by
  simp [Memory.read, Memory.lookup, h]

/-- Canonical memories that read alike at every address are equal. -/
theorem Memory.eq_of_reads (m₁ m₂ : Memory) (h₁ : m₁.wf font = true) (h₂ : m₂.wf font = true)
    (h : ∀ a, m₁.read font a = m₂.read font a) : m₁ = m₂ := by
  induction m₁ generalizing m₂ with
  | nil =>
    cases m₂ with
    | nil => rfl
    | cons c rest =>
      obtain ⟨a, b⟩ := c
      obtain ⟨-, hb, -, -⟩ := (Memory.wf_cons ..).mp h₂
      exact absurd ((Memory.read_head a b rest).symm.trans (h a).symm) hb
  | cons c₁ rest₁ ih =>
    obtain ⟨a₁, b₁⟩ := c₁
    obtain ⟨-, hb₁, habove₁, hrest₁⟩ := (Memory.wf_cons ..).mp h₁
    cases m₂ with
    | nil => exact absurd ((Memory.read_head a₁ b₁ rest₁).symm.trans (h a₁)) hb₁
    | cons c₂ rest₂ =>
      obtain ⟨a₂, b₂⟩ := c₂
      obtain ⟨-, hb₂, habove₂, hrest₂⟩ := (Memory.wf_cons ..).mp h₂
      have hlt₂ : a₁ < a₂ → False := fun hlt => hb₁ <| by
        rw [← Memory.read_head (font := font) a₁ b₁ rest₁, h a₁]
        exact Memory.read_of_above _ _ fun d hd => by
          rcases List.mem_cons.mp hd with rfl | hd
          · exact hlt
          · exact hlt.trans (habove₂ d hd)
      have hlt₁ : a₂ < a₁ → False := fun hlt => hb₂ <| by
        rw [← Memory.read_head (font := font) a₂ b₂ rest₂, ← h a₂]
        exact Memory.read_of_above _ _ fun d hd => by
          rcases List.mem_cons.mp hd with rfl | hd
          · exact hlt
          · exact hlt.trans (habove₁ d hd)
      have ha : a₁ = a₂ := by
        rcases Nat.lt_trichotomy a₁ a₂ with hlt | heq | hlt
        · exact (hlt₂ hlt).elim
        · exact heq
        · exact (hlt₁ hlt).elim
      subst ha
      have hb : b₁ = b₂ := by simpa [Memory.read_head] using h a₁
      subst hb
      congr 1
      refine ih rest₂ hrest₁ hrest₂ fun a => ?_
      by_cases hne : a = a₁
      · subst hne
        rw [Memory.read_of_above _ _ habove₁, Memory.read_of_above _ _ habove₂]
      · simpa [Memory.read_tail, hne] using h a

end Machine
end Sys2Proof
end

