-- ==== Sys2Proof/Laws/Ops.lean ====
section
/-! SUPPORT. What the shared operations do, once each: register reads after writes, the range check, sprite positions and
pixels, key selection, the tick, the flags as numbers. -/

namespace Sys2Proof
namespace Machine

variable (s : State)

/-! ### Registers -/

/-- A register reads back the last value written to it, and a write leaves every other register alone. -/
theorem State.readV_writeV (x k : RegIdx) (b : Byte) :
    (s.writeV x b).readV k = if k = x then b else s.readV k := by
  unfold State.readV State.writeV
  by_cases h : k = x
  · subst h; simp
  · have : x.val ≠ k.val := fun e => h (Fin.ext e.symm)
    simp [h, this]

/-- Result first, VF last: in VF the flag stays. -/
theorem State.readV_writeResultThenFlag (dest k : RegIdx) (result flag : Byte) :
    (s.writeResultThenFlag dest result flag).readV k =
      if k = 15 then flag else if k = dest then result else s.readV k := by
  simp only [State.writeResultThenFlag, State.readV_writeV, regF]

theorem State.writeResultThenFlag_frame (dest : RegIdx) (result flag : Byte) :
    s.writeResultThenFlag dest result flag = { s with v := (s.writeResultThenFlag dest result flag).v } := rfl

theorem State.readV_loadRegistersUpTo (x k : RegIdx) (a : Nat) :
    (s.loadRegistersUpTo x a).readV k = if k ≤ x then s.readByte (a + k.val) else s.readV k := by
  simp [State.readV, State.loadRegistersUpTo]

theorem State.length_registersUpTo (x : RegIdx) : (s.registersUpTo x).length = x.val + 1 := by
  simp only [State.registersUpTo, List.length_take, Vector.length_toList]
  omega

theorem State.getElem_registersUpTo (x : RegIdx) (k : Nat) (h : k < (s.registersUpTo x).length) :
    (s.registersUpTo x)[k] = s.v[k]'(by rw [State.length_registersUpTo] at h; omega) := by
  simp [State.registersUpTo]

/-- Registers read the same where `v` is the same. -/
theorem State.readV_congr {t : State} (h : t.v = s.v) (k : RegIdx) : t.readV k = s.readV k := by
  simp [State.readV, h]

/-- Bytes read the same where memory and FONT are the same. -/
theorem State.readByte_congr {t : State} (hm : t.mem = s.mem) (hp : t.params = s.params) (a : Nat) :
    t.readByte a = s.readByte a := by
  simp [State.readByte, hm, hp]

@[simp] theorem State.readV_advance (k : RegIdx) : s.advance.readV k = s.readV k := rfl
@[simp] theorem State.readV_countRandDraw (k : RegIdx) : s.countRandDraw.readV k = s.readV k := rfl
@[simp] theorem State.readV_storeBytes (a : Nat) (bytes : List Byte) (k : RegIdx) :
    (s.storeBytes a bytes).readV k = s.readV k := rfl
@[simp] theorem State.readByte_advance (a : Nat) : s.advance.readByte a = s.readByte a := rfl
@[simp] theorem State.readByte_writeV (x : RegIdx) (b : Byte) (a : Nat) :
    (s.writeV x b).readByte a = s.readByte a := rfl

/-! ### The range check -/

theorem rangeFits_iff (base count : Nat) : rangeFits base count = true ↔ count = 0 ∨ base + count - 1 ≤ 0xFFF := by
  simp [rangeFits]

/-! ### Sprites -/

theorem mem_setBits (rows : List Byte) (vx vy : Nat) (p : Nat × Nat) :
    p ∈ setBits rows vx vy ↔
      ∃ r c, ∃ h : r < rows.length, c ≤ 7 ∧ p = (vx + c, vy + r) ∧ rows[r].getLsbD (7 - c) = true := by
  simp only [setBits, List.mem_flatMap, List.mem_map, List.mem_filter, List.mem_range, rowBit, Prod.exists,
    List.mk_mem_zipIdx_iff_getElem?]
  constructor
  · rintro ⟨row, r, hr, c, ⟨hc, hbit⟩, rfl⟩
    obtain ⟨hlt, rfl⟩ := List.getElem?_eq_some_iff.mp hr
    exact ⟨r, c, hlt, by omega, rfl, hbit⟩
  · rintro ⟨r, c, hlt, hc, rfl, hbit⟩
    exact ⟨rows[r], r, List.getElem?_eq_getElem hlt, c, ⟨by omega, hbit⟩, rfl⟩

theorem State.mem_setBits_readBytes (n vx vy px py : Nat) :
    (px, py) ∈ setBits (s.readBytes s.i.toNat n) vx vy ↔ spriteSets s n vx vy px py := by
  rw [mem_setBits]
  simp only [State.readBytes, Memory.length_load, Memory.getElem_load, spriteSets, State.readByte, Prod.mk.injEq]
  constructor
  · rintro ⟨r, c, hr, hc, ⟨hx, hy⟩, hb⟩
    exact ⟨r, c, hr, hc, hx, hy, hb⟩
  · rintro ⟨r, c, hr, hc, hx, hy, hb⟩
    exact ⟨r, c, hr, hc, ⟨hx, hy⟩, hb⟩

/-- Each pixel is XORed with whether a position names it. -/
theorem getElem_xorPixels (fb : Framebuffer) (ps : List (Nat × Nat)) (y x : Nat) (hy : y < 32) (hx : x < 64) :
    (xorPixels fb ps)[y][x] = (fb[y][x] ^^ ps.contains (x, y)) := by
  simp [xorPixels]

theorem pixel_of_onScreen (fb : Framebuffer) (x y : Nat) (hx : x < 64) (hy : y < 32) : pixel fb x y = fb[y][x] := by
  simp [pixel, hx, hy]

/-- XOR is its own inverse. -/
theorem xorPixels_twice (fb : Framebuffer) (ps : List (Nat × Nat)) : xorPixels (xorPixels fb ps) ps = fb := by
  ext y hy x hx
  simp [xorPixels]

theorem flagByte_eq_one (b : Bool) : flagByte b = 1 ↔ b = true := by cases b <;> decide
theorem flagByte_eq_zero (b : Bool) : flagByte b = 0 ↔ b = false := by cases b <;> decide
theorem toNat_flagByte (b : Bool) : (flagByte b).toNat = if b then 1 else 0 := by cases b <;> rfl

/-! ### Arithmetic as numbers -/

theorem toNat_sumByte (a b : Byte) : (sumByte a b).toNat = (a.toNat + b.toNat) % 256 := by simp [sumByte]

theorem toNat_differenceByte (a b : Byte) : (differenceByte a b).toNat = (a.toNat + 256 - b.toNat) % 256 := by
  have := a.isLt
  have := b.isLt
  simp only [differenceByte, BitVec.toNat_ofInt]
  omega

theorem toNat_carryFlag (a b : Byte) : (carryFlag a b).toNat = if a.toNat + b.toNat > 255 then 1 else 0 := by
  simp [carryFlag, toNat_flagByte]

theorem toNat_notBorrowFlag (a b : Byte) : (notBorrowFlag a b).toNat = if b.toNat > a.toNat then 0 else 1 := by
  by_cases h : a.toNat < b.toNat <;> simp [notBorrowFlag, toNat_flagByte, h]

theorem toNat_shiftRightByte (v : Byte) : (shiftRightByte v).toNat = v.toNat / 2 := by
  simp [shiftRightByte, Nat.shiftRight_eq_div_pow]

theorem toNat_shiftedOutRight : ∀ v : Byte, (shiftedOutRight v).toNat = v.toNat % 2 := by decide

theorem toNat_shiftLeftByte (v : Byte) : (shiftLeftByte v).toNat = v.toNat * 2 % 256 := by
  simp [shiftLeftByte, Nat.shiftLeft_eq]

theorem toNat_shiftedOutLeft : ∀ v : Byte, (shiftedOutLeft v).toNat = v.toNat / 128 := by decide

theorem toNat_addressOperand (nnn : BitVec 12) : (addressOperand nnn).toNat = nnn.toNat := by
  have := nnn.isLt
  simp only [addressOperand, BitVec.zeroExtend, BitVec.toNat_setWidth]
  omega

theorem toNat_offsetAddress (nnn : BitVec 12) (v : Byte) :
    (offsetAddress nnn v).toNat = nnn.toNat + v.toNat := by
  have := nnn.isLt
  have := v.isLt
  simp only [offsetAddress, addressOperand, zext16, BitVec.zeroExtend, BitVec.toNat_add, BitVec.toNat_setWidth]
  omega

theorem toNat_glyphAddress (v : Byte) : (glyphAddress v).toNat = 5 * v.toNat := by
  have := v.isLt
  simp only [glyphAddress, BitVec.toNat_ofNat]
  omega

/-! ### The fetch -/

/-- The opcode fetched is 256 times the byte at pc plus the byte after it. -/
theorem State.fetchOpcode_eq_opcodeAtPc : s.fetchOpcode = s.opcodeAtPc := by
  have h (hi lo : Byte) : opcodeOfBytes hi lo = BitVec.ofNat 16 (256 * hi.toNat + lo.toNat) := by
    have := hi.isLt
    have := lo.isLt
    apply BitVec.eq_of_toNat_eq
    simp only [opcodeOfBytes, BitVec.toNat_append, BitVec.toNat_ofNat, Nat.shiftLeft_eq]
    rw [← Nat.shiftLeft_eq, ← Nat.shiftLeft_add_eq_or_of_lt lo.isLt, Nat.shiftLeft_eq]
    omega
  exact h ..

/-! ### Keys -/

theorem State.mem_pressedKeys (k : RegIdx) : k ∈ s.pressedKeys ↔ s.key[k.val] = true := by
  simp [State.pressedKeys]

theorem State.pressedKeys_eq_nil : s.pressedKeys = [] ↔ ∀ k : RegIdx, s.key[k.val] = false := by
  simp [State.pressedKeys, List.filter_eq_nil_iff]

theorem State.pressedKeys_sorted : s.pressedKeys.Pairwise (· < ·) :=
  (List.pairwise_lt_finRange 16).filter _

/-- The selected key is pressed; with the default KEY_SELECT it is the lowest. -/
theorem State.selectKey_spec (first : RegIdx) (others : List RegIdx) (h : s.pressedKeys = first :: others) :
    s.key[(s.selectKey first others).val] = true ∧
      (s.params.keySelect = .lowest → ∀ j : RegIdx, s.key[j.val] = true → s.selectKey first others ≤ j) := by
  constructor
  · rw [← State.mem_pressedKeys, h]
    unfold State.selectKey
    split
    · simp
    · have hlt : Config.keyChoice s.keyDraws % (others.length + 1) < (first :: others).length :=
        Nat.mod_lt _ (Nat.succ_pos _)
      rw [List.getD_eq_getElem _ _ hlt]
      exact List.getElem_mem hlt
  · intro hlow j hj
    rw [← State.mem_pressedKeys, h] at hj
    have hsorted := s.pressedKeys_sorted
    rw [h] at hsorted
    simp only [State.selectKey, hlow]
    rcases List.mem_cons.mp hj with rfl | hj
    · exact le_refl _
    · exact le_of_lt (List.rel_of_pairwise_cons hsorted hj)

theorem State.countKeyDraw_frame : s.countKeyDraw = { s with keyDraws := s.countKeyDraw.keyDraws } := by
  unfold State.countKeyDraw; split <;> rfl

/-- Recording a key writes VX and pc, and counts a draw. -/
theorem State.recordKey_frame (x first : RegIdx) (others : List RegIdx) :
    s.recordKey x first others =
      { s.writeV x (BitVec.ofNat 8 (s.selectKey first others).val) with
        pc := s.pc + 2, keyDraws := (s.recordKey x first others).keyDraws } := by
  unfold State.recordKey State.countKeyDraw; split <;> rfl

/-! ### The tick -/

/-- Tick() writes only DT, ST and the events (60_exceptions.md R243). -/
theorem State.tick_frame : s.tick = { s with dt := s.tick.dt, st := s.tick.st, events := s.tick.events } := by
  unfold State.tick; split <;> rfl

theorem State.tick_of_faulted (h : s.core = .faulted) : s.tick = s := by
  simp [State.tick, h]

/-- One down, and 0 stays 0. -/
theorem toNat_countedDown (b : Byte) : (if 0 < b.toNat then b - 1 else b).toNat = b.toNat - 1 := by
  split <;> bv_omega

theorem State.toNat_tick_dt (h : s.core ≠ .faulted) : s.tick.dt.toNat = s.dt.toNat - 1 := by
  simp only [State.tick, if_neg h, toNat_countedDown]

theorem State.toNat_tick_st (h : s.core ≠ .faulted) : s.tick.st.toNat = s.st.toNat - 1 := by
  simp only [State.tick, if_neg h, toNat_countedDown]

theorem State.tick_events (h : s.core ≠ .faulted) :
    s.tick.events = if s.st = 1 then s.events ++ [.toneRequest] else s.events := by
  simp only [State.tick, if_neg h]

/-- The tick at the end of a CYCLE is Tick() in coupled mode and nothing in decoupled. -/
theorem State.cycleTick_eq : s.cycleTick = if s.params.coupling = .coupled then s.tick else s := by
  unfold State.cycleTick; split <;> simp [*]

theorem State.cycleTick_frame :
    s.cycleTick = { s with dt := s.cycleTick.dt, st := s.cycleTick.st, events := s.cycleTick.events } := by
  unfold State.cycleTick; split
  · rfl
  · exact s.tick_frame

end Machine
end Sys2Proof
end

