-- ==== Sys2Proof/Laws/PerInstr.lean ====
section
/-! SUPPORT. The family RowMatch: every instruction's opcode matches its row of 30_encoding.md R85, one lemma per
constructor, from one lemma per format. -/

namespace Sys2Proof

/-! ### A format under its mask keeps its fixed bits -/

theorem append_and_append {n m : Nat} (a c : BitVec n) (b d : BitVec m) :
    (a ++ b) &&& (c ++ d) = (a &&& c) ++ (b &&& d) := by
  ext k hk
  simp only [BitVec.getElem_and, BitVec.getElem_append]
  split <;> simp

theorem nibble_and_ones (a : BitVec 4) : a &&& 15#4 = a := by
  rw [show (15#4) = BitVec.allOnes 4 from rfl, BitVec.and_allOnes]

theorem byte_and_ones (a : BitVec 8) : a &&& 255#8 = a := by
  rw [show (255#8) = BitVec.allOnes 8 from rfl, BitVec.and_allOnes]

theorem formatA_and (top : BitVec 4) (nnn : BitVec 12) : formatA top nnn &&& 0xF000 = formatA top 0 := by
  rw [formatA, show (0xF000 : Word) = 15#4 ++ 0#12 from rfl, append_and_append, nibble_and_ones]
  simp [formatA]

theorem formatXNN_and (top : BitVec 4) (x : RegIdx) (nn : Byte) :
    formatXNN top x nn &&& 0xF000 = formatXNN top 0 0 := by
  rw [formatXNN, show (0xF000 : Word) = 15#4 ++ 0#4 ++ 0#8 from rfl, append_and_append, append_and_append,
    nibble_and_ones]
  simp [formatXNN, regField]

theorem formatXY_and (top : BitVec 4) (x y : RegIdx) (fn : BitVec 4) :
    formatXY top x y fn &&& 0xF00F = formatXY top 0 0 fn := by
  rw [formatXY, show (0xF00F : Word) = 15#4 ++ 0#4 ++ 0#4 ++ 15#4 from rfl, append_and_append,
    append_and_append, append_and_append, nibble_and_ones, nibble_and_ones]
  simp [formatXY, regField]

theorem formatXYN_and (top : BitVec 4) (x y : RegIdx) (n : Nat) :
    formatXYN top x y n &&& 0xF000 = formatXYN top 0 0 0 := by
  rw [formatXYN, show (0xF000 : Word) = 15#4 ++ 0#4 ++ 0#4 ++ 0#4 from rfl, append_and_append,
    append_and_append, append_and_append, nibble_and_ones]
  simp [formatXYN, regField]

theorem formatX_and (top : BitVec 4) (x : RegIdx) (fn : Byte) :
    formatX top x fn &&& 0xF0FF = formatX top 0 fn := by
  rw [formatX, show (0xF0FF : Word) = 15#4 ++ 0#4 ++ 255#8 from rfl, append_and_append, append_and_append,
    nibble_and_ones, byte_and_ones]
  simp [formatX, regField]

/-! ### The family -/

/-- The columns match and mask of R85 for an instruction's row. -/
def rowPattern : Instr → Word × Word
  | .cls => (0x00E0, 0xFFFF)
  | .ret => (0x00EE, 0xFFFF)
  | .jp _ => (0x1000, 0xF000)
  | .call _ => (0x2000, 0xF000)
  | .seVxNn _ _ => (0x3000, 0xF000)
  | .sneVxNn _ _ => (0x4000, 0xF000)
  | .seVxVy _ _ => (0x5000, 0xF00F)
  | .ldVxNn _ _ => (0x6000, 0xF000)
  | .addVxNn _ _ => (0x7000, 0xF000)
  | .ldVxVy _ _ => (0x8000, 0xF00F)
  | .orVxVy _ _ => (0x8001, 0xF00F)
  | .andVxVy _ _ => (0x8002, 0xF00F)
  | .xorVxVy _ _ => (0x8003, 0xF00F)
  | .addVxVy _ _ => (0x8004, 0xF00F)
  | .subVxVy _ _ => (0x8005, 0xF00F)
  | .shrVxVy _ _ => (0x8006, 0xF00F)
  | .subnVxVy _ _ => (0x8007, 0xF00F)
  | .shlVxVy _ _ => (0x800E, 0xF00F)
  | .sneVxVy _ _ => (0x9000, 0xF00F)
  | .ldINnn _ => (0xA000, 0xF000)
  | .jpV0 _ => (0xB000, 0xF000)
  | .rnd _ _ => (0xC000, 0xF000)
  | .drw _ _ _ => (0xD000, 0xF000)
  | .skp _ => (0xE09E, 0xF0FF)
  | .sknp _ => (0xE0A1, 0xF0FF)
  | .ldVxDt _ => (0xF007, 0xF0FF)
  | .ldVxK _ => (0xF00A, 0xF0FF)
  | .ldDtVx _ => (0xF015, 0xF0FF)
  | .ldStVx _ => (0xF018, 0xF0FF)
  | .addIVx _ => (0xF01E, 0xF0FF)
  | .ldFVx _ => (0xF029, 0xF0FF)
  | .ldBVx _ => (0xF033, 0xF0FF)
  | .ldMemVx _ => (0xF055, 0xF0FF)
  | .ldVxMem _ => (0xF065, 0xF0FF)

/-- The opcode of `i` under its row's mask is the row's match. -/
def Laws.RowMatch.Statement (i : Instr) : Prop := encode i &&& (rowPattern i).2 = (rowPattern i).1

theorem Laws.RowMatch.cls : Laws.RowMatch.Statement (.cls) := rfl
theorem Laws.RowMatch.ret : Laws.RowMatch.Statement (.ret) := rfl
theorem Laws.RowMatch.jp (nnn : BitVec 12) : Laws.RowMatch.Statement (.jp nnn) := (formatA_and ..).trans rfl
theorem Laws.RowMatch.call (nnn : BitVec 12) : Laws.RowMatch.Statement (.call nnn) := (formatA_and ..).trans rfl
theorem Laws.RowMatch.seVxNn (x : RegIdx) (nn : Byte) : Laws.RowMatch.Statement (.seVxNn x nn) := (formatXNN_and ..).trans rfl
theorem Laws.RowMatch.sneVxNn (x : RegIdx) (nn : Byte) : Laws.RowMatch.Statement (.sneVxNn x nn) := (formatXNN_and ..).trans rfl
theorem Laws.RowMatch.seVxVy (x : RegIdx) (y : RegIdx) : Laws.RowMatch.Statement (.seVxVy x y) := (formatXY_and ..).trans rfl
theorem Laws.RowMatch.ldVxNn (x : RegIdx) (nn : Byte) : Laws.RowMatch.Statement (.ldVxNn x nn) := (formatXNN_and ..).trans rfl
theorem Laws.RowMatch.addVxNn (x : RegIdx) (nn : Byte) : Laws.RowMatch.Statement (.addVxNn x nn) := (formatXNN_and ..).trans rfl
theorem Laws.RowMatch.ldVxVy (x : RegIdx) (y : RegIdx) : Laws.RowMatch.Statement (.ldVxVy x y) := (formatXY_and ..).trans rfl
theorem Laws.RowMatch.orVxVy (x : RegIdx) (y : RegIdx) : Laws.RowMatch.Statement (.orVxVy x y) := (formatXY_and ..).trans rfl
theorem Laws.RowMatch.andVxVy (x : RegIdx) (y : RegIdx) : Laws.RowMatch.Statement (.andVxVy x y) := (formatXY_and ..).trans rfl
theorem Laws.RowMatch.xorVxVy (x : RegIdx) (y : RegIdx) : Laws.RowMatch.Statement (.xorVxVy x y) := (formatXY_and ..).trans rfl
theorem Laws.RowMatch.addVxVy (x : RegIdx) (y : RegIdx) : Laws.RowMatch.Statement (.addVxVy x y) := (formatXY_and ..).trans rfl
theorem Laws.RowMatch.subVxVy (x : RegIdx) (y : RegIdx) : Laws.RowMatch.Statement (.subVxVy x y) := (formatXY_and ..).trans rfl
theorem Laws.RowMatch.shrVxVy (x : RegIdx) (y : RegIdx) : Laws.RowMatch.Statement (.shrVxVy x y) := (formatXY_and ..).trans rfl
theorem Laws.RowMatch.subnVxVy (x : RegIdx) (y : RegIdx) : Laws.RowMatch.Statement (.subnVxVy x y) := (formatXY_and ..).trans rfl
theorem Laws.RowMatch.shlVxVy (x : RegIdx) (y : RegIdx) : Laws.RowMatch.Statement (.shlVxVy x y) := (formatXY_and ..).trans rfl
theorem Laws.RowMatch.sneVxVy (x : RegIdx) (y : RegIdx) : Laws.RowMatch.Statement (.sneVxVy x y) := (formatXY_and ..).trans rfl
theorem Laws.RowMatch.ldINnn (nnn : BitVec 12) : Laws.RowMatch.Statement (.ldINnn nnn) := (formatA_and ..).trans rfl
theorem Laws.RowMatch.jpV0 (nnn : BitVec 12) : Laws.RowMatch.Statement (.jpV0 nnn) := (formatA_and ..).trans rfl
theorem Laws.RowMatch.rnd (x : RegIdx) (nn : Byte) : Laws.RowMatch.Statement (.rnd x nn) := (formatXNN_and ..).trans rfl
theorem Laws.RowMatch.drw (x : RegIdx) (y : RegIdx) (n : Nat) : Laws.RowMatch.Statement (.drw x y n) := (formatXYN_and ..).trans rfl
theorem Laws.RowMatch.skp (x : RegIdx) : Laws.RowMatch.Statement (.skp x) := (formatX_and ..).trans rfl
theorem Laws.RowMatch.sknp (x : RegIdx) : Laws.RowMatch.Statement (.sknp x) := (formatX_and ..).trans rfl
theorem Laws.RowMatch.ldVxDt (x : RegIdx) : Laws.RowMatch.Statement (.ldVxDt x) := (formatX_and ..).trans rfl
theorem Laws.RowMatch.ldVxK (x : RegIdx) : Laws.RowMatch.Statement (.ldVxK x) := (formatX_and ..).trans rfl
theorem Laws.RowMatch.ldDtVx (x : RegIdx) : Laws.RowMatch.Statement (.ldDtVx x) := (formatX_and ..).trans rfl
theorem Laws.RowMatch.ldStVx (x : RegIdx) : Laws.RowMatch.Statement (.ldStVx x) := (formatX_and ..).trans rfl
theorem Laws.RowMatch.addIVx (x : RegIdx) : Laws.RowMatch.Statement (.addIVx x) := (formatX_and ..).trans rfl
theorem Laws.RowMatch.ldFVx (x : RegIdx) : Laws.RowMatch.Statement (.ldFVx x) := (formatX_and ..).trans rfl
theorem Laws.RowMatch.ldBVx (x : RegIdx) : Laws.RowMatch.Statement (.ldBVx x) := (formatX_and ..).trans rfl
theorem Laws.RowMatch.ldMemVx (x : RegIdx) : Laws.RowMatch.Statement (.ldMemVx x) := (formatX_and ..).trans rfl
theorem Laws.RowMatch.ldVxMem (x : RegIdx) : Laws.RowMatch.Statement (.ldVxMem x) := (formatX_and ..).trans rfl

end Sys2Proof
end

