-- ==== Sys2Proof/Laws/Decode.lean ====
section
/-! SUPPORT. Decoding: the fields of each format, and decoding by top nibble, which leaves at most eleven rows to look at. -/

namespace Sys2Proof

/-! ### Fields of a word put together from its parts -/

theorem extractLsb'_append_above {n m : Nat} (a : BitVec n) (b : BitVec m) (j k w : Nat) (h : j = m + k) :
    (a ++ b).extractLsb' j w = a.extractLsb' k w := by
  subst h
  ext i hi
  simp only [BitVec.getElem_extractLsb', BitVec.getLsbD_append, Nat.add_assoc]
  rw [if_neg (by omega)]
  congr 1
  omega

theorem extractLsb'_append_below {n m : Nat} (a : BitVec n) (b : BitVec m) (k w : Nat) (h : k + w ≤ m) :
    (a ++ b).extractLsb' k w = b.extractLsb' k w := by
  ext i hi
  simp only [BitVec.getElem_extractLsb', BitVec.getLsbD_append]
  rw [if_pos (by omega)]

theorem extractLsb'_whole {n : Nat} (a : BitVec n) : a.extractLsb' 0 n = a := by
  ext i hi
  simp

/-- The top nibble op[15:12] (30_encoding.md R81). -/
def topNibble (op : Word) : BitVec 4 := op.extractLsb' 12 4

theorem formatA_fields (top : BitVec 4) (nnn : BitVec 12) :
    topNibble (formatA top nnn) = top ∧ fieldNNN (formatA top nnn) = nnn := by
  unfold topNibble fieldNNN formatA
  constructor
  · rw [extractLsb'_append_above top nnn 12 0 4 rfl, extractLsb'_whole]
  · rw [extractLsb'_append_below top nnn 0 12 (by decide), extractLsb'_whole]

theorem formatXNN_fields (top : BitVec 4) (x : RegIdx) (nn : Byte) :
    topNibble (formatXNN top x nn) = top ∧ fieldX (formatXNN top x nn) = x ∧ fieldNN (formatXNN top x nn) = nn := by
  unfold topNibble fieldX fieldNN formatXNN
  refine ⟨?_, ?_, ?_⟩
  · rw [extractLsb'_append_above _ nn 12 4 4 rfl, extractLsb'_append_above top _ 4 0 4 rfl, extractLsb'_whole]
  · rw [extractLsb'_append_above _ nn 8 0 4 rfl, extractLsb'_append_below top _ 0 4 (by decide), extractLsb'_whole]
    rfl
  · rw [extractLsb'_append_below _ nn 0 8 (by decide), extractLsb'_whole]

theorem formatX_fields (top : BitVec 4) (x : RegIdx) (fn : Byte) :
    topNibble (formatX top x fn) = top ∧ fieldX (formatX top x fn) = x :=
  ⟨(formatXNN_fields top x fn).1, (formatXNN_fields top x fn).2.1⟩

theorem fourNibbles_fields (top : BitVec 4) (x y : RegIdx) (low : BitVec 4) :
    topNibble (formatXY top x y low) = top ∧ fieldX (formatXY top x y low) = x ∧
      fieldY (formatXY top x y low) = y ∧ fieldN (formatXY top x y low) = low.toNat := by
  unfold topNibble fieldX fieldY fieldN formatXY
  refine ⟨?_, ?_, ?_, ?_⟩
  · rw [extractLsb'_append_above _ low 12 8 4 rfl, extractLsb'_append_above _ (regField y) 8 4 4 rfl,
      extractLsb'_append_above top _ 4 0 4 rfl, extractLsb'_whole]
  · rw [extractLsb'_append_above _ low 8 4 4 rfl, extractLsb'_append_above _ (regField y) 4 0 4 rfl,
      extractLsb'_append_below top _ 0 4 (by decide), extractLsb'_whole]
    rfl
  · rw [extractLsb'_append_above _ low 4 0 4 rfl, extractLsb'_append_below _ (regField y) 0 4 (by decide),
      extractLsb'_whole]
    rfl
  · rw [extractLsb'_append_below _ low 0 4 (by decide), extractLsb'_whole]

theorem formatXYN_eq_formatXY (top : BitVec 4) (x y : RegIdx) (n : Nat) :
    formatXYN top x y n = formatXY top x y (BitVec.ofNat 4 n) := rfl

/-! ### Formats as numbers -/

theorem formatA_eq_ofNat (top : BitVec 4) (nnn : BitVec 12) :
    formatA top nnn = BitVec.ofNat 16 (0x1000 * top.toNat + nnn.toNat) := by
  have := nnn.isLt
  have := top.isLt
  apply BitVec.eq_of_toNat_eq
  simp only [formatA, BitVec.toNat_append, BitVec.toNat_ofNat]
  rw [← Nat.shiftLeft_add_eq_or_of_lt nnn.isLt, Nat.shiftLeft_eq]
  omega

theorem formatX_eq_ofNat (top : BitVec 4) (x : RegIdx) (fn : Byte) :
    formatX top x fn = BitVec.ofNat 16 (0x1000 * top.toNat + 0x100 * x.val + fn.toNat) := by
  have := fn.isLt
  have := top.isLt
  have hx : (regField x).toNat = x.val := rfl
  apply BitVec.eq_of_toNat_eq
  simp only [formatX, BitVec.toNat_append, BitVec.toNat_ofNat]
  rw [← Nat.shiftLeft_add_eq_or_of_lt fn.isLt, ← Nat.shiftLeft_add_eq_or_of_lt (regField x).isLt, Nat.shiftLeft_eq,
    Nat.shiftLeft_eq, hx]
  omega

theorem formatXYN_eq_ofNat (top : BitVec 4) (x y : RegIdx) (n : Nat) (hn : n ≤ 15) :
    formatXYN top x y n = BitVec.ofNat 16 (0x1000 * top.toNat + 0x100 * x.val + 0x10 * y.val + n) := by
  have := top.isLt
  have hx : (regField x).toNat = x.val := rfl
  have hy : (regField y).toNat = y.val := rfl
  have hn' : (BitVec.ofNat 4 n).toNat = n := by simp; omega
  apply BitVec.eq_of_toNat_eq
  simp only [formatXYN, BitVec.toNat_append, BitVec.toNat_ofNat]
  rw [← BitVec.toNat_ofNat, ← Nat.shiftLeft_add_eq_or_of_lt (BitVec.ofNat 4 n).isLt,
    ← Nat.shiftLeft_add_eq_or_of_lt (regField y).isLt, ← Nat.shiftLeft_add_eq_or_of_lt (regField x).isLt,
    Nat.shiftLeft_eq, Nat.shiftLeft_eq, Nat.shiftLeft_eq, hx, hy, hn']
  omega

/-! ### Decoding by the top nibble -/

/-- The rows whose match has the top nibble `t`. -/
def rowsWithTop (t : BitVec 4) : List OpcodeRow := opcodeTable.filter fun r => topNibble r.code == t

theorem topNibble_of_accepts (r : OpcodeRow) (op : Word) (hm : topNibble r.mask = 15#4) (h : r.accepts op = true) :
    topNibble r.code = topNibble op := by
  have h : op &&& r.mask = r.code := by simpa [OpcodeRow.accepts] using h
  rw [← h]
  unfold topNibble at *
  rw [BitVec.extractLsb'_and, hm, nibble_and_ones]

/-- Every mask of the table covers the top nibble. -/
theorem topNibble_masks : ∀ r ∈ opcodeTable, topNibble r.mask = 15#4 := by decide

theorem find?_rowsWithTop (op : Word) :
    opcodeTable.find? (fun r => r.accepts op) = (rowsWithTop (topNibble op)).find? (fun r => r.accepts op) := by
  have key : ∀ l : List OpcodeRow, (∀ r ∈ l, topNibble r.mask = 15#4) →
      l.find? (fun r => r.accepts op) =
        (l.filter fun r => topNibble r.code == topNibble op).find? (fun r => r.accepts op) := by
    intro l hl
    induction l with
    | nil => rfl
    | cons r l ih =>
      have ih := ih fun r hr => hl r (List.mem_cons_of_mem _ hr)
      rw [List.filter_cons]
      cases hr : r.accepts op with
      | false => split <;> simp [hr, ih]
      | true => simp [hr, topNibble_of_accepts r op (hl r (by simp)) hr]
  exact key _ topNibble_masks

/-- Decode(op) looks only at the rows of op's top nibble. -/
theorem decodeWord_eq_of_top (op : Word) (t : BitVec 4) (h : topNibble op = t) :
    decodeWord op =
      match (rowsWithTop t).find? (fun r => r.accepts op) with
      | some r => .ok (r.build op)
      | none => .error (.unknownOpcode op) := by
  subst h
  exact congrArg (fun row : Option OpcodeRow => match row with
    | some r => Except.ok (r.build op)
    | none => Except.error (DecodeError.unknownOpcode op)) (find?_rowsWithTop op)

/-- The instruction of the first row of op's top nibble that matches. -/
theorem decodeWord_of_find? (op : Word) (t : BitVec 4) (r : OpcodeRow) (h : topNibble op = t)
    (hr : (rowsWithTop t).find? (fun r => r.accepts op) = some r) : decodeWord op = .ok (r.build op) := by
  rw [decodeWord_eq_of_top op t h, hr]

/-- The two bytes of an opcode, most significant first, give it back. -/
theorem opcodeOfBytes_bytes (op : Word) : opcodeOfBytes (op.extractLsb' 8 8) (op.extractLsb' 0 8) = op := by
  ext k hk
  simp only [opcodeOfBytes]
  rw [BitVec.getElem_append]
  split
  · rw [BitVec.getElem_extractLsb', Nat.zero_add, BitVec.getLsbD_eq_getElem hk]
  · rw [BitVec.getElem_extractLsb', BitVec.getLsbD_eq_getElem (by omega)]
    congr 1
    omega

end Sys2Proof
end

