-- ==== Sys2Proof/Laws/Step.lean ====
section
/-! SUPPORT. What a step, a CYCLE and an instruction can do, once each, for proofs over all of them. -/

namespace Sys2Proof
namespace Machine

variable {s t : State}

/-! ### The step -/

/-- With an empty script and no load fault, a step is a CYCLE. -/
theorem step_of_cycles (h : s.cycles) : step s = cycle s := by
  obtain ⟨h1, h2⟩ := h
  simp [step, State.nextOp, h1, perform, h2]

theorem step_of_op {op : HostOp} {rest : List HostOp} (h : s.hostOps = op :: rest) :
    step s = perform op { s with hostOps := rest } := by
  simp [step, State.nextOp, h]

/-- Every way a step answers a next state: a CYCLE (of an empty script, or scripted), or one of the five other
operations. -/
theorem step_cases (h : step s = .next t) :
    (s.hostOps = [] ∧ s.loadRejected = false ∧ cycle s = .next t) ∨
    (∃ rest, s.hostOps = .cycle :: rest ∧ s.loadRejected = false ∧ cycle { s with hostOps := rest } = .next t) ∨
    (∃ rest, s.hostOps = .tick :: rest ∧ s.loadRejected = false ∧ t = { s with hostOps := rest }.tick) ∨
    (∃ keys rest, s.hostOps = .setKeys keys :: rest ∧ t = { s with key := keys, hostOps := rest }) ∨
    (∃ asked rest, s.hostOps = .read asked :: rest ∧
      t = { s with hostOps := rest, replies := s.replies ++ [.readOut (s.readOut asked)] }) ∨
    (∃ rest, s.hostOps = .ackRedraw :: rest ∧ t = { s with redraw := false, hostOps := rest }) ∨
    (∃ image rest, s.hostOps = .reset image :: rest ∧ t = { s with hostOps := rest }.hostReset image) := by
  cases hops : s.hostOps with
  | nil =>
    simp only [step, State.nextOp, hops, perform] at h
    split at h
    · cases h
    · exact .inl ⟨rfl, eq_false_of_ne_true ‹_›, h⟩
  | cons op rest =>
    rw [step_of_op hops] at h
    cases op with
    | cycle =>
      simp only [perform] at h
      split at h
      · cases h
      · exact .inr (.inl ⟨rest, rfl, eq_false_of_ne_true ‹_›, h⟩)
    | tick =>
      simp only [perform] at h
      split at h
      · cases h
      · cases h
        exact .inr (.inr (.inl ⟨rest, rfl, eq_false_of_ne_true ‹_›, rfl⟩))
    | setKeys keys => cases h; exact .inr (.inr (.inr (.inl ⟨keys, rest, rfl, rfl⟩)))
    | read asked => cases h; exact .inr (.inr (.inr (.inr (.inl ⟨asked, rest, rfl, rfl⟩))))
    | ackRedraw => cases h; exact .inr (.inr (.inr (.inr (.inr (.inl ⟨rest, rfl, rfl⟩)))))
    | reset image => cases h; exact .inr (.inr (.inr (.inr (.inr (.inr ⟨image, rest, rfl, rfl⟩)))))

/-! ### RESET -/

theorem State.hostReset_of_fits {image : List Byte} (h : imageFits image = true) :
    s.hostReset image = { s.resetCore image with replies := s.replies ++ [.resetDone] } := by
  simp [State.hostReset, h, State.resetCore]

theorem State.hostReset_of_not_fits {image : List Byte} (h : imageFits image = false) :
    s.hostReset image =
      { s with replies := s.replies ++ [.loadFault image.length], loadRejected := true } := by
  simp [State.hostReset, h]

/-! ### The CYCLE -/

/-- Every way a CYCLE answers a next state. -/
theorem cycle_cases (h : cycle s = .next t) :
    (s.core = .faulted ∧ t = s) ∨
    (∃ x, s.core = .awaitingKey x ∧ t = (s.pollKey x).cycleTick) ∨
    (s.core = .fetching ∧ s.canFetch = false ∧ t = s.raiseFault .addrFetch 0x0000 s.pc) ∨
    (s.core = .fetching ∧ s.canFetch = true ∧ ∃ i u, decodeWord s.fetchOpcode = .ok i ∧ exec i s = .next u ∧
      t = u.cycleTick) ∨
    (s.core = .fetching ∧ s.canFetch = true ∧ (∃ e, decodeWord s.fetchOpcode = .error e) ∧
      t = (s.reportUnknown s.fetchOpcode).cycleTick) := by
  unfold cycle at h
  split at h
  · cases h; exact .inl ⟨‹_›, rfl⟩
  · cases h; exact .inr (.inl ⟨_, ‹_›, rfl⟩)
  · unfold fetchAndExecute at h
    split at h
    · split at h
      · rename_i hi
        cases he : exec _ s with
        | next u =>
          rw [he] at h
          cases h
          exact .inr (.inr (.inr (.inl ⟨‹_›, ‹_›, _, u, hi, he, rfl⟩)))
        | fault r => rw [he] at h; cases h
        | refused r => rw [he] at h; cases h
      · cases h
        exact .inr (.inr (.inr (.inr ⟨‹_›, ‹_›, ⟨_, ‹_›⟩, rfl⟩)))
    · cases h
      exact .inr (.inr (.inl ⟨‹_›, eq_false_of_ne_true ‹_›, rfl⟩))

theorem State.canFetch_iff : s.canFetch = true ↔ s.pc.toNat ≤ 0xFFE := by
  simp only [State.canFetch, decide_eq_true_eq]
  omega

/-! ### An instruction -/

/-- `t` is what an instruction that raised no fault may leave of `s`: the latch, the keypad, the parameters, the events and
the host's part are as before, and the core state is as before or waits for a key. -/
def CompletedFrame (s t : State) : Prop :=
  (t.core = s.core ∨ ∃ x, t.core = .awaitingKey x) ∧
  t = { s with v := t.v, i := t.i, pc := t.pc, sp := t.sp, stack := t.stack, dt := t.dt, st := t.st, fb := t.fb
               redraw := t.redraw, core := t.core, mem := t.mem, randDraws := t.randDraws, keyDraws := t.keyDraws }

/-- `raise Fault(code, info)` of every code but the fetch's takes the fault it names, with the opcode it is given. -/
theorem State.raiseFault_faultTaken (code : FaultCode) (op info : Word) (hc : code ≠ .addrFetch) :
    FaultTaken s (s.raiseFault code op info) code op info := by
  simp [FaultTaken, State.raiseFault, hc]

theorem setBits_all_onScreen (n vx vy : Nat) :
    (setBits (s.readBytes s.i.toNat n) vx vy).all onScreen = true ↔
      ∀ px py, spriteSets s n vx vy px py → px ≤ 63 ∧ py ≤ 31 := by
  rw [List.all_eq_true]
  constructor
  · intro h px py hs
    simpa [onScreen] using h (px, py) ((s.mem_setBits_readBytes ..).mpr hs)
  · rintro h ⟨px, py⟩ hp
    simpa [onScreen] using h px py ((s.mem_setBits_readBytes ..).mp hp)

/-- A draw that passes both checks: the new framebuffer, pixel by pixel, and the collision flag. Its `fb` is left abstract,
so that a proof never unfolds it. -/
theorem exec_drw_drawn (x y : RegIdx) (n : Nat) (hr : rangeFits s.i.toNat n = true)
    (hon : (setBits (s.readBytes s.i.toNat n) (s.readV x).toNat (s.readV y).toNat).all onScreen = true) :
    ∃ fb' : Framebuffer,
      (∀ (py px : Nat) (_ : py < 32) (_ : px < 64), fb'[py][px] =
        (s.fb[py][px] ^^ (setBits (s.readBytes s.i.toNat n) (s.readV x).toNat (s.readV y).toNat).contains (px, py))) ∧
      exec (.drw x y n) s = .next ({ s with fb := fb', redraw := true }.writeV regF
        (collisionFlag s.fb (setBits (s.readBytes s.i.toNat n) (s.readV x).toNat (s.readV y).toNat))).advance := by
  refine ⟨_, fun py px hy hx => getElem_xorPixels s.fb _ py px hy hx, ?_⟩
  simp only [exec, execDrw, hr, if_true]
  rw [if_pos hon]

/-- Recording a key, and waiting for one, leave the frame of a completed instruction. -/
theorem execLdVxK_frame (x : RegIdx) (h : exec (.ldVxK x) s = .next t) : CompletedFrame s t := by
  simp only [exec, execLdVxK] at h
  split at h
  · cases h; exact ⟨.inr ⟨x, rfl⟩, rfl⟩
  · cases h
    rw [State.recordKey_frame]
    exact ⟨.inl rfl, rfl⟩

/-- Every way an instruction answers a next state: it completes in its frame, or it takes one fault. -/
theorem exec_cases (i : Instr) (h : exec i s = .next t) :
    CompletedFrame s t ∨ ∃ code info, FaultTaken s t code (encode i) info ∧
      code ∈ [FaultCode.stackOverflow, .stackUnderflow, .addrMem, .addrFb, .addrKey] := by
  have fault (code : FaultCode) (info : Word)
      (hc : code ∈ [FaultCode.stackOverflow, .stackUnderflow, .addrMem, .addrFb, .addrKey])
      (ht : t = s.raiseFault code (encode i) info) :
      ∃ code info, FaultTaken s t code (encode i) info ∧
        code ∈ [FaultCode.stackOverflow, .stackUnderflow, .addrMem, .addrFb, .addrKey] := by
    subst ht
    exact ⟨code, info, State.raiseFault_faultTaken _ _ _ (by rintro rfl; simp at hc), hc⟩
  cases i
  case ldVxK x => exact .inl (execLdVxK_frame x h)
  case drw x y n =>
    by_cases hr : rangeFits s.i.toNat n = true
    · by_cases hon :
          (setBits (s.readBytes s.i.toNat n) (s.readV x).toNat (s.readV y).toNat).all onScreen = true
      · obtain ⟨fb', -, he⟩ := exec_drw_drawn x y n hr hon
        rw [he] at h
        cases h
        exact .inl ⟨.inl rfl, rfl⟩
      · simp only [exec, execDrw, hr, if_true] at h
        rw [if_neg hon] at h
        cases h
        exact .inr (fault _ _ (by simp) rfl)
    · simp only [exec, execDrw, if_neg hr] at h
      cases h
      exact .inr (fault _ _ (by simp) rfl)
  case ldVxMem x =>
    simp only [exec, execLdVxMem] at h
    split at h
    · cases h
      refine .inl ⟨.inl ?_, ?_⟩
      · simp
      · simp only [State.advance, State.loadRegistersUpTo]
    · cases h
      exact .inr (fault _ _ (by simp) rfl)
  case ret | skp | sknp | ldBVx | ldMemVx =>
    simp only [exec, execRet, execSkp, execSknp, execLdBVx, execLdMemVx] at h
    split at h <;> cases h
    all_goals first
      | exact .inl ⟨.inl rfl, rfl⟩
      | exact .inr (fault _ _ (by simp) rfl)
  case call =>
    simp only [exec, execCall] at h
    split at h <;> cases h
    · exact .inl ⟨.inl rfl, rfl⟩
    · exact .inr (fault _ _ (by simp) rfl)
  all_goals
    cases h
    exact .inl ⟨.inl rfl, rfl⟩

/-- An instruction always answers a next state. -/
theorem exec_next (i : Instr) (s : State) : ∃ t, exec i s = .next t := by
  cases i
  case ret | skp | sknp | ldBVx | ldMemVx | ldVxMem =>
    simp only [exec, execRet, execSkp, execSknp, execLdBVx, execLdMemVx, execLdVxMem]
    split <;> exact ⟨_, rfl⟩
  case call => simp only [exec, execCall]; split <;> exact ⟨_, rfl⟩
  case ldVxK => simp only [exec, execLdVxK]; split <;> exact ⟨_, rfl⟩
  case drw =>
    simp only [exec, execDrw]
    split
    · split <;> exact ⟨_, rfl⟩
    · exact ⟨_, rfl⟩
  all_goals exact ⟨_, rfl⟩

end Machine
end Sys2Proof
end

