-- ==== Sys2Proof/Tests/Slice0.lean ====
section
/-! SUPPORT. The model's own tests. Expected results are those of spec/95_test_vectors.md (the vector's number is in each
name: F, B, A, M, D, K, H, S, P) or written out from the encodings of 30_encoding.md. After them, one witness for each
obligation that has hypotheses, at the boundary values of its clauses. -/

namespace Sys2Proof
namespace Tests

open Sys2Proof.Machine
open Host.Outcome (next)

/-! ### Helpers -/

/-- Look at the next state, where there is one. -/
def looked {α : Type} (f : State → α) : Host.Outcome State Fault Refusal → Option α
  | .next t => some (f t)
  | .fault _ => none
  | .refused _ => none

/-- Look at the state after one step. -/
def after {α : Type} (f : State → α) (s : State) : Option α := looked f (step s)

/-- An opcode at pc, as the vectors place it. -/
def placed (op : Nat) (s : State) : State := s.withFetchWord 16 op

/-- The reset state with some registers set. -/
def regs (l : List (RegIdx × Byte)) : State := l.foldl (fun s p => s.writeV p.1 p.2) State.reset

/-- I set. -/
def atI (i : Word) (s : State) : State := { s with i := i }

/-- pc set. -/
def atPc (pc : Word) (s : State) : State := { s with pc := pc }

/-- TIMER_COUPLING = coupled. -/
def coupled (s : State) : State := { s with params := { s.params with coupling := .coupled } }

/-- TIMER_COUPLING = decoupled. -/
def decoupled (s : State) : State := { s with params := { s.params with coupling := .decoupled } }

/-- Exactly these keys pressed. -/
def keys (ks : List RegIdx) : Vector Bool 16 := Vector.ofFn fun k => ks.contains k

/-- The keypad set. -/
def pressing (ks : List RegIdx) (s : State) : State := { s with key := keys ks }

/-- The host's script. -/
def script (ops : List HostOp) (s : State) : State := { s with hostOps := ops }

/-- `s` with one pixel on. -/
def lit (x y : Nat) (s : State) : State := { s with fb := togglePixel s.fb x y }

/-- `s` with the pixels (0..7, 0) on, and no other. -/
def rowLit (s : State) : State :=
  { s with fb := Vector.ofFn fun y => Vector.ofFn fun x => decide (y.val = 0 ∧ x.val ≤ 7) }

/-- A sprite of the given rows at 0x300, drawn from there at (V0, V1). -/
def sprite (rows : List Byte) (v0 v1 : Byte) : State := atI 0x300 ((regs [(0, v0), (1, v1)]).storeBytes 0x300 rows)

/-- A stack of the given depth, every entry 0x300. -/
def stackOf (sp : Fin 17) : State := { State.reset with sp := sp, stack := Vector.replicate 16 0x300 }

/-- What a fault leaves to see: the latch and the core state, and pc. -/
def faultView (t : State) : FaultLatch × Bool × Word := (t.latch, decide (t.core = .faulted), t.pc)

/-- A state after a fault (B6). -/
def faulted : State := State.reset.raiseFault .stackUnderflow 0x00EE 0

/-- The next state of an outcome that has one. -/
def stateOf : Host.Outcome State Fault Refusal → State
  | .next t => t
  | .fault _ => State.reset
  | .refused _ => State.reset

/-! ### WellFormed: ill-formed terms are refused -/

theorem test_wellFormed_refuses_row_count_16 : (Instr.drw 0 1 16).wellFormed = false := by decide
theorem test_wellFormed_accepts_row_count_15 : (Instr.drw 0 1 15).wellFormed = true := by decide
theorem test_imageFits_refuses_3585_bytes : imageFits (List.replicate 3585 0) = false := by
  rw [imageFits, List.length_replicate]; decide
theorem test_imageFits_accepts_3584_bytes : imageFits (List.replicate 3584 0) = true := by
  rw [imageFits, List.length_replicate]; decide

/-! ### Decoding: every row, its word written bit by bit from the table's encoding string -/

theorem test_decode_flow :
    decodeWord 0b0000000011101110 = .ok .ret ∧
    decodeWord 0b0001001000110100 = .ok (.jp 0x234) ∧
    decodeWord 0b0010001100000001 = .ok (.call 0x301) ∧
    decodeWord 0b0011001101000010 = .ok (.seVxNn 3 0x42) ∧
    decodeWord 0b0100001110000001 = .ok (.sneVxNn 3 0x81) ∧
    decodeWord 0b0101000100100000 = .ok (.seVxVy 1 2) ∧
    decodeWord 0b1001000111110000 = .ok (.sneVxVy 1 15) ∧
    decodeWord 0b1011111100000001 = .ok (.jpV0 0xF01) := by decide

theorem test_decode_loads_logic :
    decodeWord 0b0110101000000101 = .ok (.ldVxNn 0xA 0x05) ∧
    decodeWord 0b0111000110000000 = .ok (.addVxNn 1 0x80) ∧
    decodeWord 0b1000000100100000 = .ok (.ldVxVy 1 2) ∧
    decodeWord 0b1000000100100001 = .ok (.orVxVy 1 2) ∧
    decodeWord 0b1000000100100010 = .ok (.andVxVy 1 2) ∧
    decodeWord 0b1000000100100011 = .ok (.xorVxVy 1 2) ∧
    decodeWord 0b1100000100001111 = .ok (.rnd 1 0x0F) := by decide

theorem test_decode_flag_instructions :
    decodeWord 0b1000000100100100 = .ok (.addVxVy 1 2) ∧
    decodeWord 0b1000000100100101 = .ok (.subVxVy 1 2) ∧
    decodeWord 0b1000000100100110 = .ok (.shrVxVy 1 2) ∧
    decodeWord 0b1000111100010111 = .ok (.subnVxVy 15 1) ∧
    decodeWord 0b1000000100101110 = .ok (.shlVxVy 1 2) := by decide

theorem test_decode_index_memory :
    decodeWord 0b1010000100100011 = .ok (.ldINnn 0x123) ∧
    decodeWord 0b1111000100011110 = .ok (.addIVx 1) ∧
    decodeWord 0b1111000100101001 = .ok (.ldFVx 1) ∧
    decodeWord 0b1111000100110011 = .ok (.ldBVx 1) ∧
    decodeWord 0b1111001001010101 = .ok (.ldMemVx 2) ∧
    decodeWord 0b1111111101100101 = .ok (.ldVxMem 15) := by decide

theorem test_decode_display_keypad_timers :
    decodeWord 0b0000000011100000 = .ok .cls ∧
    decodeWord 0b1101000000010101 = .ok (.drw 0 1 5) ∧
    decodeWord 0b1110000110011110 = .ok (.skp 1) ∧
    decodeWord 0b1110000110100001 = .ok (.sknp 1) ∧
    decodeWord 0b1111001100000111 = .ok (.ldVxDt 3) ∧
    decodeWord 0b1111010100001010 = .ok (.ldVxK 5) ∧
    decodeWord 0b1111000100010101 = .ok (.ldDtVx 1) ∧
    decodeWord 0b1111000100011000 = .ok (.ldStVx 1) := by decide

/-- F4 to F10: unknown opcodes are rejected by name. -/
theorem test_decode_unknown :
    [0x5121, 0x9121, 0x8128, 0x0123, 0x0000, 0xE1FF, 0xF1FF].all
      (fun op => decide (decodeWord op = .error (.unknownOpcode op))) = true := by decide

theorem test_decode_truncated : decodeBytes [0x60] = .error (.truncated 1) ∧ decodeBytes [] = .error (.truncated 0) := by
  decide

/-- Bytes most significant first (R69), two consumed (R80). -/
theorem test_decodeBytes_consumes_two : decodeBytes [0x6A, 0x05, 0x12] = .ok (.ldVxNn 0xA 0x05, [0x12]) := by decide

theorem test_encode_words :
    encode (.call 0x300) = 0x2300 ∧ encode (.subnVxVy 1 15) = 0x81F7 ∧ encode (.drw 3 4 5) = 0xD345 ∧
    encode (.ldVxMem 2) = 0xF265 ∧ encodeBytes (.ldVxNn 0xA 0x05) = [0x6A, 0x05] := by decide

theorem test_decodeTableWord : decodeTableWord 16 0xD345 = some (.drw 3 4 5) ∧ decodeTableWord 16 0x5121 = none := by
  decide

/-! ### The cycle -/

theorem test_F1_fetch_at_top : after (fun t => (t.readV 0, t.pc)) (placed 0x6001 (atPc 0xFFE State.reset)) =
    some (1, 0x1000) := by decide
theorem test_F2_fetch_fault : after faultView (atPc 0xFFF State.reset) =
    some (⟨.addrFetch, 0xFFF, 0x0000, 0x0FFF⟩, true, 0xFFF) := by decide
theorem test_F3_fetch_fault : after faultView (atPc 0x1000 State.reset) =
    some (⟨.addrFetch, 0x1000, 0x0000, 0x1000⟩, true, 0x1000) := by decide
theorem test_F4_unknown : after (fun t => (t.events, t.pc, t.latch.code, decide (t.core = .fetching)))
    (placed 0x5121 State.reset) = some ([.decodeReport 0x200 0x5121], 0x202, .noFault, true) := by decide
theorem test_F11_unknown_ticks : after (fun t => (t.pc, t.dt)) (placed 0x5121 (coupled { State.reset with dt := 2 })) =
    some (0x202, 1) := by decide
theorem test_F12_cycle_in_faulted : step faulted = next faulted := by rfl
theorem test_F13_odd_pc : after (fun t => (t.readV 1, t.pc)) (placed 0x6107 (atPc 0x201 State.reset)) =
    some (7, 0x203) := by decide

/-! ### Control flow -/

theorem test_B1_jp : after (·.pc) (placed 0x1234 State.reset) = some 0x234 := by decide
theorem test_B2_idle_loop : (placed 0x1200 State.reset).finished = true ∧
    after (·.pc) (placed 0x1200 State.reset) = some 0x200 := by decide
theorem test_B3_call : after (fun t => (t.stack[0], t.sp.val, t.pc)) (placed 0x2300 State.reset) =
    some (0x200, 1, 0x300) := by decide
theorem test_B4_call_overflow : after faultView (placed 0x2400 (stackOf 16)) =
    some (⟨.stackOverflow, 0x200, 0x2400, 16⟩, true, 0x200) := by decide
theorem test_B5_ret : after (fun t => (t.sp.val, t.pc, t.stack[0])) (placed 0x00EE (stackOf 1)) =
    some (0, 0x302, 0x300) := by decide
theorem test_B6_ret_underflow : after faultView (placed 0x00EE State.reset) =
    some (⟨.stackUnderflow, 0x200, 0x00EE, 0⟩, true, 0x200) := by decide
theorem test_B7_B8_se : after (·.pc) (placed 0x3342 (atPc 0x300 (regs [(3, 0x42)]))) = some 0x304 ∧
    after (·.pc) (placed 0x3343 (atPc 0x300 (regs [(3, 0x42)]))) = some 0x302 := by decide
theorem test_B9_B10_sne : after (·.pc) (placed 0x4342 (atPc 0x300 (regs [(3, 0x42)]))) = some 0x302 ∧
    after (·.pc) (placed 0x4300 (atPc 0x300 (regs [(3, 0x42)]))) = some 0x304 := by decide
theorem test_B11_se_registers : after (·.pc) (placed 0x5120 (regs [(1, 7), (2, 7)])) = some 0x204 ∧
    after (·.pc) (placed 0x5120 (regs [(1, 7), (2, 8)])) = some 0x202 := by decide
theorem test_B13_B14_sne_registers : after (·.pc) (placed 0x9120 (regs [(1, 7), (2, 8)])) = some 0x204 ∧
    after (·.pc) (placed 0x9110 State.reset) = some 0x202 := by decide
theorem test_B16_B17_jp_v0 : after (·.pc) (placed 0xB0FF (regs [(0, 1)])) = some 0x100 ∧
    after (·.pc) (placed 0xBFFF (regs [(0, 0xFF)])) = some 0x10FE := by decide
theorem test_B18_skip_past_the_end : after (fun t => (t.pc, decide (t.core = .fetching)))
    (placed 0x3000 (atPc 0xFFC State.reset)) = some (0x1000, true) := by decide

/-! ### ALU -/

theorem test_A1_S8_ld : after (·.readV 15) (placed 0x6FAA State.reset) = some 0xAA ∧
    after (fun t => (t.readV 0xA, t.pc)) (placed 0x6A05 State.reset) = some (5, 0x202) := by decide
theorem test_A2_A3_add_immediate : after (fun t => (t.readV 1, t.readV 15)) (placed 0x7105 (regs [(1, 0xFF)])) =
      some (0x04, 0) ∧ after (·.readV 15) (placed 0x7FFF (regs [(15, 1)])) = some 0 := by decide
theorem test_A4_copy : after (fun t => (t.readV 1, t.readV 2)) (placed 0x8120 (regs [(2, 0x33)])) =
    some (0x33, 0x33) := by decide
theorem test_A5_or : after (fun t => (t.readV 1, t.readV 15)) (placed 0x8121 (regs [(1, 0x0F), (2, 0xF0), (15, 7)])) =
    some (0xFF, 7) := by decide
theorem test_A6_and : after (·.readV 1) (placed 0x8122 (regs [(1, 0x3C), (2, 0x0F)])) = some 0x0C := by decide
theorem test_A7_A8_xor : after (·.readV 1) (placed 0x8123 (regs [(1, 0xFF), (2, 0x0F)])) = some 0xF0 ∧
    after (·.readV 1) (placed 0x8113 (regs [(1, 0x55)])) = some 0 := by decide
theorem test_A9_A10_add : after (fun t => (t.readV 1, t.readV 15)) (placed 0x8124 (regs [(1, 0xFF), (2, 1)])) =
      some (0, 1) ∧
    after (fun t => (t.readV 1, t.readV 15)) (placed 0x8114 (regs [(1, 0x80)])) = some (0, 1) := by decide
theorem test_A11_A12_A13_add_vf : after (·.readV 15) (placed 0x8FF4 (regs [(15, 0x80)])) = some 1 ∧
    after (·.readV 15) (placed 0x8F14 (regs [(15, 0x10), (1, 0x20)])) = some 0 ∧
    after (fun t => (t.readV 1, t.readV 15)) (placed 0x81F4 (regs [(1, 0xFF), (15, 1)])) = some (0, 1) := by decide
theorem test_A14_A15_sub : after (fun t => (t.readV 1, t.readV 15)) (placed 0x8125 (regs [(1, 3), (2, 5)])) =
      some (0xFE, 0) ∧
    after (fun t => (t.readV 1, t.readV 15)) (placed 0x8125 (regs [(1, 9), (2, 9)])) = some (0, 1) := by decide
theorem test_A16_sub_vf : after (·.readV 15) (placed 0x8FF5 (regs [(15, 7)])) = some 1 := by decide
theorem test_A17_A18_shr : after (fun t => (t.readV 1, t.readV 15)) (placed 0x8106 (regs [(1, 5)])) = some (2, 1) ∧
    after (fun t => (t.readV 1, t.readV 15, t.readV 2)) (placed 0x8126 (regs [(1, 1), (2, 0xFF)])) =
      some (0, 1, 0xFF) := by decide
theorem test_A19_shr_vf : after (·.readV 15) (placed 0x8F06 (regs [(15, 3)])) = some 1 := by decide
theorem test_A20_A21_subn :
    after (fun t => (t.readV 2, t.readV 1, t.readV 15)) (placed 0x8127 (regs [(1, 3), (2, 5)])) = some (2, 3, 1) ∧
    after (fun t => (t.readV 2, t.readV 1, t.readV 15)) (placed 0x8127 (regs [(1, 5), (2, 3)])) =
      some (0xFE, 5, 0) := by decide
theorem test_A22_A23_subn_vf : after (fun t => (t.readV 1, t.readV 15)) (placed 0x81F7 (regs [(1, 3), (15, 5)])) =
      some (3, 1) ∧
    after (fun t => (t.readV 1, t.readV 15)) (placed 0x8F17 (regs [(15, 5), (1, 3)])) = some (0xFE, 0) := by decide
theorem test_A24_A25_shl : after (fun t => (t.readV 1, t.readV 15)) (placed 0x810E (regs [(1, 0x81)])) =
      some (2, 1) ∧
    after (fun t => (t.readV 1, t.readV 15)) (placed 0x810E (regs [(1, 0x7F)])) = some (0xFE, 0) := by decide
theorem test_A26_shl_vf : after (·.readV 15) (placed 0x8F0E (regs [(15, 0x80)])) = some 1 := by decide
/-- A28. The byte RAND draws is a free value, so A27's own byte cannot be placed: only the mask is tested. -/
theorem test_A28_rnd : after (fun t => (t.readV 0, t.randDraws, t.pc)) (placed 0xC000 (regs [(0, 9)])) =
    some (0, 1, 0x202) := by
  simp only [after, placed, State.withFetchWord]
  rw [show step ((regs [(0, 9)]).placeOpcode (tableOpcode 16 0xC000)) =
      exec (.rnd 0 0) ((regs [(0, 9)]).placeOpcode (tableOpcode 16 0xC000)) from rfl]
  simp only [exec, execRnd, looked, Option.some.injEq, Prod.mk.injEq, State.readV_advance, State.readV_countRandDraw,
    State.readV_writeV]
  exact ⟨by simp, rfl, rfl⟩

/-! ### Index and memory -/

theorem test_M1_S9_ld_i : after (·.i) (placed 0xAFFF State.reset) = some 0x0FFF ∧
    after (fun t => (t.i, t.pc)) (placed 0xA123 State.reset) = some (0x123, 0x202) := by decide
theorem test_M2_M3_M4_add_i : after (·.i) (placed 0xF11E (atI 0x100 (regs [(1, 0xFF)]))) = some 0x1FF ∧
    after (fun t => (t.i, t.readV 15)) (placed 0xF11E (atI 0xFFFF (regs [(1, 2)]))) = some (1, 0) ∧
    after (·.i) (placed 0xF11E (atI 0xFFF (regs [(1, 1)]))) = some 0x1000 := by decide
theorem test_M5_M6_glyph : after (·.i) (placed 0xF129 (regs [(1, 0x0A)])) = some 0x032 ∧
    after (·.i) (placed 0xF129 (regs [(1, 0xFF)])) = some 0x4FB := by decide
theorem test_S6_M8_M9_digits :
    after (·.readBytes 0x300 3) (placed 0xF133 (atI 0x300 (regs [(1, 234)]))) = some [2, 3, 4] ∧
    after (·.readBytes 0x300 3) (placed 0xF133 (atI 0x300 (regs [(1, 255)]))) = some [2, 5, 5] ∧
    after (·.readBytes 0xFFD 3) (placed 0xF133 (atI 0xFFD (regs [(1, 1)]))) = some [0, 0, 1] := by decide
theorem test_M10_M11_digits_fault : after faultView (placed 0xF133 (atI 0xFFE (regs [(1, 1)]))) =
      some (⟨.addrMem, 0x200, 0xF133, 0x0FFE⟩, true, 0x200) ∧
    after faultView (placed 0xF133 (atI 0x1000 (regs [(1, 7)]))) =
      some (⟨.addrMem, 0x200, 0xF133, 0x1000⟩, true, 0x200) := by decide
theorem test_M12_M13_store : after (fun t => (t.readBytes 0x300 3, t.i))
      (placed 0xF255 (atI 0x300 (regs [(0, 1), (1, 2), (2, 3)]))) = some ([1, 2, 3], 0x300) ∧
    after (·.readBytes 0xFFD 3) (placed 0xF255 (atI 0xFFD (regs [(0, 1), (1, 2), (2, 3)]))) = some [1, 2, 3] := by
  decide
theorem test_M14_M18_store : after faultView (placed 0xF255 (atI 0xFFE State.reset)) =
      some (⟨.addrMem, 0x200, 0xF255, 0x0FFE⟩, true, 0x200) ∧
    after (fun t => (t.readBytes 0x200 2, t.pc)) (placed 0xF155 (atI 0x200 (regs [(0, 0x12)]))) =
      some ([0x12, 0x00], 0x202) := by decide
theorem test_M15_M16_load : after (·.readV 0) (placed 0xF065 (atI 0xFFF (State.reset.storeBytes 0xFFF [0x5A]))) =
      some 0x5A ∧
    after faultView (placed 0xF165 (atI 0xFFF State.reset)) =
      some (⟨.addrMem, 0x200, 0xF165, 0x0FFF⟩, true, 0x200) := by decide
theorem test_M17_load_font : after (·.v.toList) (placed 0xFF65 State.reset) =
    some [0xF0, 0x90, 0x90, 0x90, 0xF0, 0x20, 0x60, 0x20, 0x20, 0x70, 0xF0, 0x10, 0xF0, 0x80, 0xF0, 0xF0] := by decide

/-! ### Display -/

theorem test_D1_D2_cls : after (fun t => (t.fb[0][0], t.fb[31][63], t.redraw))
    (placed 0x00E0 (lit 0 0 (lit 63 31 State.reset))) = some (false, false, true) ∧
    after (·.redraw) (placed 0x00E0 State.reset) = some true := by decide
theorem test_D3_D6_draw_at_the_edge : after (fun t => (t.fb[31][63], t.readV 15, t.redraw))
      (placed 0xD011 (sprite [0x80] 63 31)) = some (true, 0, true) ∧
    after (fun t => (t.fb[0][63], t.readV 15)) (placed 0xD011 (sprite [0x02] 57 0)) = some (true, 0) := by decide
theorem test_D4_D5_draw_off_screen : after faultView (placed 0xD011 (sprite [0xC0] 63 0)) =
      some (⟨.addrFb, 0x200, 0xD011, 0x3F00⟩, true, 0x200) ∧
    after faultView (placed 0xD011 (sprite [0x01] 57 0)) =
      some (⟨.addrFb, 0x200, 0xD011, 0x3900⟩, true, 0x200) := by decide
theorem test_D7_D8_draw_nothing : after (fun t => (t.readV 15, t.redraw, t.pc))
      (placed 0xD011 (sprite [0] 200 200)) = some (0, true, 0x202) ∧
    after (fun t => (t.readV 15, t.redraw, t.pc)) (placed 0xD010 (atI 0xFFFF (sprite [0xFF] 200 200))) =
      some (0, true, 0x202) := by decide
theorem test_D10_D11_draw_at_the_top : after faultView (placed 0xD012 (atI 0xFFF (regs [(0, 100)]))) =
      some (⟨.addrMem, 0x200, 0xD012, 0x0FFF⟩, true, 0x200) ∧
    after (·.fb[0][0]) (placed 0xD001 (atI 0xFFF (State.reset.storeBytes 0xFFF [0x80]))) = some true := by decide
/-- D12's second draw, from the framebuffer the first leaves. -/
theorem test_D12_collision : after (fun t => (t.fb[0][0], t.fb[0][7], t.readV 15))
    (placed 0xD011 (rowLit (sprite [0xFF] 0 0))) = some (false, false, 1) := by decide
theorem test_D13_draw_at_vf : after (fun t => (t.fb[1][0], t.fb[0][0], t.readV 15))
    (placed 0xD0F1 ((sprite [0xFF] 0 0).writeV 15 1)) = some (true, false, 0) := by decide
/-- S10 and R64: the default font's 0, drawn from address 0. -/
theorem test_S10_draw_glyph : after (fun t => (t.fb[0][3], t.fb[1][3], t.fb[1][1], t.fb[4][0], t.readV 15))
    (placed 0xD015 State.reset) = some (true, true, false, true, 0) := by decide

/-! ### Keypad and timers -/

theorem test_K1_K2_skp : after (·.pc) (placed 0xE19E (pressing [5] (regs [(1, 5)]))) = some 0x204 ∧
    after (·.pc) (placed 0xE19E (regs [(1, 5)])) = some 0x202 := by decide
theorem test_K3_K4_sknp : after (·.pc) (placed 0xE1A1 (pressing [5] (regs [(1, 5)]))) = some 0x202 ∧
    after (·.pc) (placed 0xE1A1 (regs [(1, 5)])) = some 0x204 := by decide
theorem test_K5_K6_key_fault : after faultView (placed 0xE09E (regs [(0, 0x10)])) =
      some (⟨.addrKey, 0x200, 0xE09E, 0x0010⟩, true, 0x200) ∧
    after faultView (placed 0xE0A1 (regs [(0, 0xFF)])) =
      some (⟨.addrKey, 0x200, 0xE0A1, 0x00FF⟩, true, 0x200) := by decide
theorem test_K7_K8_read_dt : after (·.readV 3) (placed 0xF307 { State.reset with dt := 0x3C }) = some 0x3C ∧
    after (fun t => (t.readV 3, t.dt)) (placed 0xF307 (coupled { State.reset with dt := 3 })) = some (3, 2) := by decide
theorem test_K9_K10_wait_key :
    after (fun t => (decide (t.core = .awaitingKey 5), t.pc)) (placed 0xF50A State.reset) = some (true, 0x200) ∧
    after (fun t => (t.readV 5, t.pc, decide (t.core = .fetching))) (placed 0xF50A (pressing [3, 7] State.reset)) =
      some (3, 0x202, true) := by decide
theorem test_K11_K12_poll : step { State.reset with core := .awaitingKey 5 } =
      next { State.reset with core := .awaitingKey 5 } ∧
    after (fun t => (t.readV 5, t.pc, decide (t.core = .fetching)))
      (pressing [0xC] { State.reset with core := .awaitingKey 5 }) = some (0x0C, 0x202, true) := ⟨rfl, by decide⟩
theorem test_K13_poll_ticks : after (fun t => (t.dt, decide (t.core = .awaitingKey 5)))
    (coupled { State.reset with core := .awaitingKey 5, dt := 4 }) = some (3, true) := by decide
theorem test_K15_K16_set_dt : after (·.dt) (placed 0xF115 (regs [(1, 0x3C)])) = some 0x3C ∧
    after (·.dt) (placed 0xF115 (coupled (regs [(1, 1)]))) = some 0 := by decide
theorem test_K17_K21_set_st : after (fun t => (t.st, t.events)) (placed 0xF118 (regs [(1, 2)])) = some (2, []) ∧
    after (fun t => (t.st, t.events)) (placed 0xF118 (coupled (regs [(1, 1)]))) = some (0, [.toneRequest]) := by decide

/-! ### Host operations and reset -/

theorem test_K18_K19_tick : after (fun t => (t.st, t.events)) (script [.tick] { State.reset with st := 2 }) =
      some (1, []) ∧
    after (fun t => (t.dt, t.st, t.events)) (script [.tick] { State.reset with st := 1, dt := 1 }) =
      some (0, 0, [.toneRequest]) := by decide
theorem test_K20_tick_at_zero : after (fun t => (t.dt, t.st, t.events)) (script [.tick] State.reset) =
    some (0, 0, []) := by decide
/-- H1, in Faulted: RESET of the image 12 00. -/
theorem test_H1_reset : after (fun t => (t.readBytes 0x200 3, t.latch.code, decide (t.core = .fetching), t.pc))
    (script [.reset [0x12, 0x00]] faulted) = some ([0x12, 0x00, 0x00], .noFault, true, 0x200) := by decide
/-- H2: an image of 3585 bytes. -/
theorem test_H2_load_fault : step (script [.reset (List.replicate 3585 0)] State.reset) =
    next { State.reset with replies := [.loadFault 3585], loadRejected := true } := by
  rw [step_of_op (s := script [.reset (List.replicate 3585 0)] State.reset) rfl]
  simp only [perform]
  rw [State.hostReset_of_not_fits test_imageFits_refuses_3585_bytes, List.length_replicate]
  rfl
theorem test_cycle_refused_after_load_fault : step { State.reset with loadRejected := true } =
    .refused .afterLoadFault := by rfl
theorem test_H4_empty_program : after (fun t => (t.events, t.pc)) State.reset =
    some ([.decodeReport 0x200 0x0000], 0x202) := by decide
theorem test_H5_ack_redraw : after (·.redraw) (script [.ackRedraw] { State.reset with redraw := true }) =
    some false := by decide
theorem test_H6_set_keys : after (fun t => (t.key[0], t.key[15], t.key[1]))
    (script [.setKeys (keys [0, 15])] State.reset) = some (true, true, false) := by decide
/-- READ (R251) gives what is asked for besides the named four: pc of a waiting core, SP, a stack entry, a key, a font byte. -/
theorem test_read_answers :
    let asked := [StateElement.pc, .sp, .stack 0, .key 3, .mem 0x000]
    let s := pressing [3] { stackOf 1 with core := .awaitingKey 5, redraw := true, pc := 0x206 }
    after (fun t => t.replies.map fun r => match r with
        | .readOut o => (o.redraw, decide (o.core = .awaitingKey 5), o.asked.map (·.2))
        | _ => (false, false, [])) (script [.read asked] s) =
      some [(true, true, [0x206, 1, (stackOf 1).stack[0].toNat, 1, 0xF0])] := by decide

/-- The memory and the font of the reset state (R37, R64), at the regions' ends. -/
theorem test_reset_memory :
    [0x000, 0x04F, 0x050, 0x1FF, 0x200, 0xFFF].map State.reset.readByte = [0xF0, 0x80, 0, 0, 0, 0] ∧
    State.reset.mem.wf State.reset.params.font = true := by decide
/-- A byte written back to its reset value leaves the list of cells. -/
theorem test_memory_canonical : (State.reset.storeBytes 0x300 [1]).mem = [(0x300, 1)] ∧
    ((State.reset.storeBytes 0x300 [1]).storeBytes 0x300 [0]).mem = [] := by decide

/-! ### Witnesses: a state and operands that meet each obligation's hypotheses, clause by clause -/

theorem witness_DecodeOfEncodeIsTheInstruction :
    (Instr.drw 15 15 15).wellFormed = true ∧ (Instr.drw 0 0 0).wellFormed = true ∧ Instr.cls.wellFormed = true := by
  decide

theorem witness_EncodeOfDecodeIsTheOpcode : decodeWord 0xDFFF = .ok (.drw 15 15 15) ∧ decodeWord 0x00E0 = .ok .cls := by
  decide

/-- Clause 2 at an opcode some row accepts, clause 3 at one that none does. -/
theorem witness_DecodeGivesTheUniqueMatchingRow :
    (∃ r ∈ opcodeTable, (0xFF65 : Word) &&& r.mask = r.code) ∧
    (∀ r ∈ opcodeTable, (0xFF66 : Word) &&& r.mask ≠ r.code) := by decide

/-- Both sides of each clause of R86, at the ends of its range. -/
theorem witness_UnknownOpcodesAreTheListedOnes :
    [0x0000, 0x00DF, 0x00E1, 0x00ED, 0x00EF, 0x0FFF, 0x5001, 0x5FFF, 0x8008, 0x8FFD, 0x8FFF, 0x9001, 0x9FFF,
      0xE09D, 0xEFA2, 0xF006, 0xFF66].all (fun op => decide (decodeWord op = .error (.unknownOpcode op))) = true ∧
    [0x00E0, 0x00EE, 0x1000, 0x4FFF, 0x5FF0, 0x6000, 0x8FF7, 0x8FFE, 0x9FF0, 0xA000, 0xDFFF, 0xEF9E, 0xEFA1, 0xFF07,
      0xFF65].all (fun op => decide (decodeWord op ≠ .error (.unknownOpcode op))) = true := by decide

/-- At the last pc that can be fetched from, in both couplings. -/
theorem witness_StepRunsTheDecodedInstruction :
    let s := placed 0x6001 (atPc 0xFFE State.reset)
    (s.cycles ∧ s.core = .fetching ∧ s.pc.toNat ≤ 0xFFE ∧ decodeWord s.opcodeAtPc = .ok (.ldVxNn 0 1) ∧
      exec (.ldVxNn 0 1) s = next (stateOf (exec (.ldVxNn 0 1) s))) ∧
    ((coupled s).cycles ∧ (coupled s).core = .fetching ∧ (coupled s).pc.toNat ≤ 0xFFE ∧
      decodeWord (coupled s).opcodeAtPc = .ok (.ldVxNn 0 1)) :=
  ⟨⟨⟨rfl, rfl⟩, rfl, by decide, by decide, rfl⟩, ⟨rfl, rfl⟩, rfl, by decide, by decide⟩

/-- Clause 2 at 0xFFF, the first pc that cannot be fetched from, clause 3 at 0xFFE, the last that can. -/
theorem witness_FetchOutsideMemoryFaults :
    ((atPc 0xFFF State.reset).cycles ∧ (atPc 0xFFF State.reset).core = .fetching ∧
      0xFFF ≤ (atPc 0xFFF State.reset).pc.toNat) ∧
    (let s := atPc 0xFFE State.reset
     s.cycles ∧ s.core = .fetching ∧ s.pc.toNat ≤ 0xFFE ∧ s.latch.code ≠ .addrFetch ∧
      step s = next (stateOf (step s))) :=
  ⟨⟨⟨rfl, rfl⟩, rfl, by decide⟩, ⟨rfl, rfl⟩, rfl, by decide, by decide, rfl⟩

theorem witness_UnknownOpcodeIsAReportedNoOp :
    let s := placed 0x5121 (atPc 0xFFE State.reset)
    s.cycles ∧ s.core = .fetching ∧ s.pc.toNat ≤ 0xFFE ∧
      decodeWord s.opcodeAtPc = .error (.unknownOpcode s.opcodeAtPc) :=
  ⟨⟨rfl, rfl⟩, rfl, by decide, by decide⟩

theorem witness_CoupledCycleIsTheDecoupledOneThenATick :
    let s := placed 0xF307 (coupled { State.reset with dt := 3 })
    s.cycles ∧ s.params.coupling = .coupled ∧ step (decoupled s) = next (stateOf (step (decoupled s))) :=
  ⟨⟨rfl, rfl⟩, rfl, rfl⟩

theorem witness_FaultedCoreDoesNothing :
    faulted.core = .faulted ∧ faulted.loadRejected = false ∧ faulted.hostOps = [] ∧
    (script [.cycle] faulted).hostOps = [.cycle] ∧ (script [.tick] faulted).hostOps = [.tick] := ⟨rfl, rfl, rfl, rfl, rfl⟩

theorem witness_OnlyResetLeavesFaulted :
    faulted.core = .faulted ∧ step faulted = next faulted ∧
    step (script [.reset []] faulted) = next (stateOf (step (script [.reset []] faulted))) ∧
    (stateOf (step (script [.reset []] faulted))).core = .fetching := ⟨rfl, rfl, rfl, rfl⟩

/-- One that raises a fault, and one of each class of R104, completing. -/
theorem witness_CompletedInstructionsSetPcByTheirClass :
    looked (fun t => decide (t.core = .faulted)) (exec .ret State.reset) = some true ∧
    [(Instr.cls, State.reset), (.seVxNn 0 0, State.reset), (.jp 0xFFF, State.reset), (.call 0xFFF, stackOf 15),
      (.jpV0 0xFFF, regs [(0, 0xFF)]), (.ret, stackOf 16), (.ldVxK 0, State.reset), (.skp 0, State.reset)].all
      (fun p => decide (p.2.core = .fetching) &&
        decide (looked (fun t => decide (t.core ≠ .faulted)) (exec p.1 p.2) = some true)) = true := by decide

theorem witness_CycleIsAlwaysPossible : State.reset.cycles ∧ faulted.cycles := ⟨⟨rfl, rfl⟩, rfl, rfl⟩

theorem witness_RetReturnsPastTheCall : (stackOf 0).sp.val = 0 ∧ 0 < (stackOf 1).sp.val ∧ 0 < (stackOf 16).sp.val := by
  decide

theorem witness_CallPushesItsOwnAddress :
    (stackOf 16).sp.val = 16 ∧ (stackOf 15).sp.val < 16 ∧ (stackOf 0).sp.val < 16 ∧
    (∃ k : Fin 16, k.val ≠ (stackOf 15).sp.val) := by decide

theorem witness_RegisterSkipsAddFourOrTwo :
    let s := regs [(1, 7), (2, 7), (3, 8)]
    s.readV 1 = 7 ∧ s.readV 1 ≠ 8 ∧ s.readV 1 = s.readV 2 ∧ s.readV 1 ≠ s.readV 3 := by decide

/-- A CALL from the depth 15, no step of a body, and the RET of it. -/
theorem witness_CallBalancedBodyReturn :
    let s := placed 0x2300 (stackOf 15)
    let t := stateOf (exec (.call 0x300) s)
    s.sp.val < 16 ∧ exec (.call 0x300) s = next t ∧ stepsThrough (fun q => s.sp.val < q.sp.val) 0 t t ∧
      t.sp.val = s.sp.val + 1 ∧ exec .ret t = next (stateOf (exec .ret t)) :=
  ⟨by decide, rfl, rfl, by decide, rfl⟩

/-- And a body of one instruction, at 0x300. -/
theorem witness_CallBalancedBodyReturn_body :
    let s := (placed 0x2300 State.reset).storeBytes 0x300 [0x60, 0x01]
    let t := stateOf (exec (.call 0x300) s)
    let u := stateOf (step t)
    exec (.call 0x300) s = next t ∧ stepsThrough (fun q => s.sp.val < q.sp.val) 1 t u ∧ u.sp.val = s.sp.val + 1 ∧
      exec .ret u = next (stateOf (exec .ret u)) :=
  ⟨rfl, ⟨_, rfl, by decide, rfl⟩, by decide, rfl⟩

/-- Two states that differ in V3 alone, which 8124 does not read. -/
theorem witness_RegisterUseIsThatOfTheTable :
    let s := regs [(1, 7), (2, 8)]
    let s' := s.writeV 3 9
    s' = { s with v := s'.v } ∧ (∀ k ∈ regReads (.addVxVy 1 2), s.readV k = s'.readV k) ∧ s.readV 3 ≠ s'.readV 3 ∧
      exec (.addVxVy 1 2) s = next (stateOf (exec (.addVxVy 1 2) s)) ∧
      exec (.addVxVy 1 2) s' = next (stateOf (exec (.addVxVy 1 2) s')) :=
  ⟨rfl, by decide, by decide, rfl, rfl⟩

/-- One instruction of each kind of R21. -/
theorem witness_VfIsAFlagOrANamedDestination :
    [Instr.addVxVy 1 2, .drw 0 1 0, .ldVxNn 14 3, .ldVxMem 14, .cls].all
      (fun i => decide (looked (fun t => decide (t.core = .fetching)) (exec i State.reset) = some true)) = true ∧
    State.reset.core = .fetching ∧ (14 : RegIdx) ≠ 15 := by decide

/-- One writer of each element, changing it. -/
theorem witness_EachStateElementHasItsWriters :
    looked (fun t => decide (t.i ≠ State.reset.i)) (exec (.ldINnn 1) State.reset) = some true ∧
    looked (fun t => decide (t.sp ≠ (stackOf 1).sp)) (exec .ret (stackOf 1)) = some true ∧
    looked (fun t => decide (t.stack ≠ State.reset.stack)) (exec (.call 0x300) State.reset) = some true ∧
    looked (fun t => decide (t.dt ≠ 0)) (exec (.ldDtVx 1) (regs [(1, 7)])) = some true ∧
    looked (fun t => decide (t.st ≠ 0)) (exec (.ldStVx 1) (regs [(1, 7)])) = some true ∧
    looked (fun t => decide (t.redraw ≠ State.reset.redraw)) (exec .cls State.reset) = some true ∧
    looked (fun t => decide (t.mem ≠ [])) (exec (.ldBVx 1) (atI 0x300 (regs [(1, 7)]))) = some true ∧
    looked (fun t => decide (t.readV 1 ≠ 0)) (exec (.ldVxNn 1 7) State.reset) = some true ∧
    looked (fun t => decide (t.core = .faulted ∧ t.latch ≠ State.reset.latch)) (exec .ret State.reset) = some true ∧
    looked (fun t => decide (t.core = .awaitingKey 4)) (exec (.ldVxK 4) State.reset) = some true := by decide

/-- Both clauses at the boundary: I = 0xFFD and 0xFFE. -/
theorem witness_DecimalDigitsAreStored :
    (atI 0xFFD State.reset).i.toNat + 2 ≤ 0xFFF ∧ (atI 0xFFE State.reset).i.toNat + 2 > 0xFFF ∧
    (0xFFC < (atI 0xFFD State.reset).i.toNat) := by decide

/-- Both clauses at the boundary: I + X = 0xFFF and 0x1000; and k = X. -/
theorem witness_RegistersAreStored :
    (atI 0xFF0 State.reset).i.toNat + (15 : RegIdx).val ≤ 0xFFF ∧
    (atI 0xFF1 State.reset).i.toNat + (15 : RegIdx).val > 0xFFF ∧ (15 : RegIdx) ≤ 15 ∧
    (0xFEF < (atI 0xFF0 State.reset).i.toNat) := by decide

theorem witness_RegistersAreLoaded :
    (atI 0xFFF State.reset).i.toNat + (0 : RegIdx).val ≤ 0xFFF ∧
    (atI 0xFFF State.reset).i.toNat + (1 : RegIdx).val > 0xFFF := by decide

/-- FX55 with X = 0 over the high byte alone, at the last pc with a next opcode. -/
theorem witness_StoreOverTheNextInstructionIsFetched_registers :
    let s := placed 0xF055 (atPc 0xFFC (atI 0xFFE (regs [(0, 0x12)])))
    s.cycles ∧ s.core = .fetching ∧ s.pc.toNat + 3 ≤ 0xFFF ∧ decodeWord s.opcodeAtPc = .ok (.ldMemVx 0) ∧
      s.i.toNat = s.pc.toNat + 2 ∧ s.i.toNat + (0 : RegIdx).val ≤ 0xFFF ∧
      after (fun t => (t.pc, t.opcodeAtPc)) s = some (0xFFE, 0x1200) :=
  ⟨⟨rfl, rfl⟩, rfl, by decide, by decide, by decide, by decide, by decide⟩

/-- FX33 whose last digits fall on the next opcode: 254 gives 5 and 4 (and its first digit on FX33's own low byte). -/
theorem witness_StoreOverTheNextInstructionIsFetched_digits :
    let s := placed 0xF133 (atI 0x201 (regs [(1, 254)]))
    s.cycles ∧ s.core = .fetching ∧ s.pc.toNat + 3 ≤ 0xFFF ∧ decodeWord s.opcodeAtPc = .ok (.ldBVx 1) ∧
      s.i.toNat = s.pc.toNat + 1 ∧ s.i.toNat + 2 ≤ 0xFFF ∧
      after (fun t => (t.pc, t.opcodeAtPc)) s = some (0x202, 0x0504) :=
  ⟨⟨rfl, rfl⟩, rfl, by decide, by decide, by decide, by decide, by decide⟩

/-- Clause 1 (memory), with n at its largest. -/
theorem witness_DrawXorsTheSprite_memory :
    (15 : Nat) ≤ 15 ∧ (15 > 0 ∧ (atI 0xFF2 State.reset).i.toNat + 15 - 1 > 0xFFF) := by decide

/-- Clause 2 (framebuffer): a set bit one column off the screen. -/
theorem witness_DrawXorsTheSprite_framebuffer :
    let s := sprite [0x01] 57 0
    s.i.toNat + 1 - 1 ≤ 0xFFF ∧ ∃ px py, spriteSets s 1 (s.readV 0).toNat (s.readV 1).toNat px py ∧ (px > 63 ∨ py > 31) :=
  ⟨by decide, 64, 0, ⟨0, 7, by decide, by decide, by decide, by decide, by decide⟩, .inl (by decide)⟩

/-- Clause 3 (the draw): the last pixel of the screen, under a set bit, on; its left neighbour under none. -/
theorem witness_DrawXorsTheSprite_drawn :
    let s := lit 63 31 (sprite [0x80] 63 31)
    s.i.toNat + 1 - 1 ≤ 0xFFF ∧
    (∀ px py, spriteSets s 1 (s.readV 0).toNat (s.readV 1).toNat px py → px ≤ 63 ∧ py ≤ 31) ∧
    spriteSets s 1 (s.readV 0).toNat (s.readV 1).toNat 63 31 ∧ s.fb[31][63] = true ∧
    ¬ spriteSets s 1 (s.readV 0).toNat (s.readV 1).toNat 62 31 := by
  have v0 : ((lit 63 31 (sprite [0x80] 63 31)).readV 0).toNat = 63 := by decide
  have v1 : ((lit 63 31 (sprite [0x80] 63 31)).readV 1).toNat = 31 := by decide
  have row : (lit 63 31 (sprite [0x80] 63 31)).readByte ((lit 63 31 (sprite [0x80] 63 31)).i.toNat + 0) = 0x80 := by
    decide
  refine ⟨by decide, ?_, ⟨0, 0, by decide, by decide, by decide, by decide, by decide⟩, by decide, ?_⟩
  · rintro px py ⟨r, c, hr, hc, rfl, rfl, hb⟩
    obtain rfl : r = 0 := by omega
    rw [row] at hb
    have : c = 0 := by
      revert hb
      have := hc
      interval_cases c <;> decide
    omega
  · rintro ⟨r, c, hr, hc, hx, -, -⟩
    omega

theorem witness_DrawIsThePixelLoop :
    let s := sprite [0xFF] 0 0
    s.core = .fetching ∧ exec (.drw 0 1 1) s = next (stateOf (exec (.drw 0 1 1) s)) ∧
      looked (fun t => decide (t.core = .fetching)) (exec (.drw 0 1 1) s) = some true :=
  ⟨rfl, rfl, by decide⟩

/-- With a pixel under the sprite on, and one off, before the first draw. -/
theorem witness_DrawingTwiceRestoresTheScreen :
    let s := lit 0 0 (sprite [0xC0] 0 0)
    (0 : RegIdx) ≠ 15 ∧ (1 : RegIdx) ≠ 15 ∧ s.core = .fetching ∧
      exec (.drw 0 1 1) s = next (stateOf (exec (.drw 0 1 1) s)) ∧
      looked (fun t => decide (t.core = .fetching)) (exec (.drw 0 1 1) s) = some true ∧
      s.fb[0][0] = true ∧ s.fb[0][1] = false :=
  ⟨by decide, by decide, rfl, rfl, by decide, by decide, by decide⟩

/-- A state that meets the hypotheses and not the conclusion: the only pixel under the sprite is on before the first draw,
so the second draw clears none, and its VF is 0 though the sprite has a set bit (log entry 12). -/
theorem witness_SecondDrawFlagAsTheLawWordsIt :
    let s := lit 0 0 (sprite [0x80] 0 0)
    (0 : RegIdx) ≠ 15 ∧ (1 : RegIdx) ≠ 15 ∧ s.core = .fetching ∧
      looked (fun t => (decide (t.core = .fetching),
        looked (fun u => (decide (u.core = .fetching), u.readV 15)) (exec (.drw 0 1 1) t)))
        (exec (.drw 0 1 1) s) = some (true, some (true, 0)) ∧ s.readByte (s.i.toNat + 0) ≠ 0 := by decide

theorem witness_FramebufferChangesOnlyByClearAndDraw :
    after (fun t => t.fb[0][0]) (placed 0x00E0 (lit 0 0 State.reset)) = some false ∧
    after (fun t => t.fb[0][0]) (placed 0xD011 (sprite [0x80] 0 0)) = some true ∧
    after (fun t => t.fb[0][0]) (script [.reset []] (lit 0 0 State.reset)) = some false ∧
    (lit 0 0 State.reset).fb[0][0] = true := by decide

/-- Both clauses at the boundary: the index 0xF, pressed and not, and 0x10. -/
theorem witness_KeySkipsAddFourOrTwo :
    ((regs [(1, 0x0F)]).readV 1).toNat ≤ 0xF ∧ ((regs [(1, 0x10)]).readV 1).toNat > 0xF ∧
    (pressing [15] State.reset).key[15] = true ∧ State.reset.key[15] = false := by decide

theorem witness_WaitForKeyCompletesOrWaits :
    (∀ k : Fin 16, State.reset.key[k.val] = false) ∧ (∃ k : Fin 16, (pressing [15] State.reset).key[k.val] = true) ∧
    State.reset.params.keySelect = .lowest := by decide

theorem witness_PollOfAWaitingCore :
    let s := { State.reset with core := .awaitingKey 5 }
    s.cycles ∧ s.core = .awaitingKey 5 ∧ (∀ k : Fin 16, s.key[k.val] = false) ∧
      (pressing [15] s).cycles ∧ (pressing [15] s).core = .awaitingKey 5 ∧
      (∃ k : Fin 16, (pressing [15] s).key[k.val] = true) :=
  ⟨⟨rfl, rfl⟩, rfl, by decide, ⟨rfl, rfl⟩, rfl, by decide⟩

theorem witness_OnlyAKeyOrResetEndsTheWait :
    let s := pressing [15] { State.reset with core := .awaitingKey 5 }
    s.core = .awaitingKey 5 ∧ step s = next (stateOf (step s)) ∧
      after (fun t => decide (t.core ≠ .awaitingKey 5)) s = some true :=
  ⟨rfl, rfl, by decide⟩

theorem witness_TickCountsBothTimersDown :
    (script [.tick] State.reset).hostOps = [.tick] ∧ (script [.tick] State.reset).loadRejected = false ∧
    (script [.tick] State.reset).core ≠ .faulted ∧ (script [.tick] faulted).core = .faulted ∧
    (script [.tick] { State.reset with st := 1 }).st.toNat = 1 := by decide

theorem witness_DelayTimerReachesZeroOnItsLastTick :
    let s := script (List.replicate 7 .tick ++ [.read []]) (regs [(1, 7)])
    exec (.ldDtVx 1) s = next (stateOf (exec (.ldDtVx 1) s)) ∧ s.core = .fetching ∧ s.loadRejected = false ∧
      s.hostOps = List.replicate 7 .tick ++ [.read []] := ⟨rfl, rfl, rfl, rfl⟩

theorem witness_SoundTimerAsksForOneTone :
    let s := script (List.replicate 7 .tick ++ [.read []]) (regs [(1, 7)])
    exec (.ldStVx 1) s = next (stateOf (exec (.ldStVx 1) s)) ∧ s.core = .fetching ∧ s.loadRejected = false ∧
      s.hostOps = List.replicate 7 .tick ++ [.read []] ∧ (s.readV 1).toNat = 7 := ⟨rfl, rfl, rfl, rfl, by decide⟩

/-- FX15 and FX07 one after the other at the last pc that leaves room for both, with V1 = 3 (program P5's value). -/
theorem witness_CoupledDelayReadsOneLess :
    let s := (placed 0xF115 (atPc 0xFFC (coupled (regs [(1, 3)])))).storeBytes 0xFFE [0xF2, 0x07]
    s.cycles ∧ s.core = .fetching ∧ s.params.coupling = .coupled ∧ s.pc.toNat ≤ 0xFFC ∧
      decodeWord s.opcodeAtPc = .ok (.ldDtVx 1) ∧
      decodeWord { s with pc := s.pc + 2 }.opcodeAtPc = .ok (.ldVxDt 2) :=
  ⟨⟨rfl, rfl⟩, rfl, rfl, by decide, by decide, by decide⟩

/-- A state that meets the hypotheses and not the conclusion: with V1 = 3, FX07 reads 2, as program P5's trace has it
(log entry 19). -/
theorem witness_CoupledDelayAsTheHazardRuleWordsIt :
    let s := (placed 0xF115 (coupled (regs [(1, 3)]))).storeBytes 0x202 [0xF2, 0x07]
    s.cycles ∧ s.core = .fetching ∧ s.params.coupling = .coupled ∧ s.pc.toNat ≤ 0xFFC ∧
      decodeWord s.opcodeAtPc = .ok (.ldDtVx 1) ∧
      decodeWord { s with pc := s.pc + 2 }.opcodeAtPc = .ok (.ldVxDt 2) ∧ 2 ≤ (s.readV 1).toNat ∧
      looked (after (·.readV 2)) (step s) = some (some 2) :=
  ⟨⟨rfl, rfl⟩, rfl, rfl, by decide, by decide, by decide, by decide, by decide⟩

/-- One instruction of each fault, at its boundary, and one that raises none. -/
theorem witness_FaultsAreThoseOfTheTable :
    State.reset.core = .fetching ∧ faultOf .cls State.reset = .noFault ∧
    faultOf .ret State.reset = .stackUnderflow ∧ faultOf (.call 0) (stackOf 16) = .stackOverflow ∧
    faultOf (.ldBVx 0) (atI 0xFFE State.reset) = .addrMem ∧ faultOf (.drw 0 1 1) (sprite [0x01] 57 0) = .addrFb ∧
    faultOf (.drw 0 1 2) (atI 0xFFF (regs [(0, 100)])) = .addrMem ∧
    faultOf (.skp 0) (regs [(0, 0x10)]) = .addrKey := by decide

theorem witness_FaultsArePrecise :
    let s := placed 0x00EE State.reset
    step s = next (stateOf (step s)) ∧ s.core ≠ .faulted ∧ after (fun t => decide (t.core = .faulted)) s = some true ∧
    after (fun t => decide (t.core = .faulted)) (atPc 0xFFF State.reset) = some true :=
  ⟨rfl, by decide, by decide, by decide⟩

/-- A step with two events: an unknown opcode in coupled mode with ST = 1. -/
theorem witness_AStepEmitsAtMostTwoEventsInOrder :
    after (·.events) (coupled { State.reset with st := 1 }) = some [.decodeReport 0x200 0x0000, .toneRequest] := by
  decide

/-- The three ways to a ToneRequest: TICK, a coupled CYCLE, and a coupled FX18 that sets ST to 1. -/
theorem witness_TheOnlySoundIsAOneShotToneRequest :
    after (fun t => (t.events, t.st)) (script [.tick] { State.reset with st := 1 }) = some ([.toneRequest], 0) ∧
    after (fun t => (t.events, t.st)) (placed 0x6107 (coupled { State.reset with st := 1 })) =
      some ([.toneRequest], 0) ∧
    after (fun t => (t.events, t.st)) (placed 0xF118 (coupled (regs [(1, 1)]))) = some ([.toneRequest], 0) := by decide

theorem witness_HostOperationsDoWhatTheTableSays :
    (script [.setKeys (keys [1])] State.reset).hostOps = [.setKeys (keys [1])] ∧
    (script [.read [.pc, .mem 0xFFF]] State.reset).hostOps = [.read [.pc, .mem 0xFFF]] ∧ (script [.ackRedraw] State.reset).hostOps = [.ackRedraw] ∧
    (script [.tick] State.reset).hostOps = [.tick] ∧ (script [.tick] State.reset).loadRejected = false ∧
    (script [.cycle] State.reset).hostOps = [.cycle] ∧
    step (script [] State.reset) = next (stateOf (step (script [] State.reset))) :=
  ⟨rfl, rfl, rfl, rfl, rfl, rfl, rfl⟩

theorem witness_OnlySetKeysAndResetWriteTheKeypad :
    after (fun t => t.key[1]) (script [.setKeys (keys [1])] State.reset) = some true ∧ State.reset.key[1] = false ∧
    after (fun t => t.key[1]) (script [.reset []] (pressing [1] State.reset)) = some false ∧
    (pressing [1] State.reset).key[1] = true := by decide

/-- The longest image, and the empty one. -/
theorem witness_ResetSetsEveryStateElement :
    (script [.reset (List.replicate 3584 1)] faulted).hostOps = [.reset (List.replicate 3584 1)] ∧
    (List.replicate 3584 (1 : Byte)).length ≤ 3584 ∧ ([] : List Byte).length ≤ 3584 :=
  ⟨rfl, by rw [List.length_replicate], by decide⟩

theorem witness_OversizedImageIsRejectedWhole :
    (script [.reset (List.replicate 3585 1)] State.reset).hostOps = [.reset (List.replicate 3585 1)] ∧
    3584 < (List.replicate 3585 (1 : Byte)).length :=
  ⟨rfl, by rw [List.length_replicate]; decide⟩

theorem witness_CycleAndTickAreRefusedAfterALoadFault :
    let s := { State.reset with loadRejected := true }
    s.loadRejected = true ∧ s.hostOps = [] ∧ (script [.cycle] s).hostOps = [.cycle] ∧
      (script [.tick] s).hostOps = [.tick] := ⟨rfl, rfl, rfl, rfl⟩

/-- A state with memory, a return address and a waiting core, that meets the invariant. -/
theorem witness_EveryStepKeepsTheInvariant :
    let s := { placed 0xF50A (stackOf 1) with core := .awaitingKey 5 }
    s.Inv ∧ step s = next (stateOf (step s)) := by
  refine ⟨⟨by decide, by decide, by decide, by decide, by decide, ?_⟩, rfl⟩
  intro x hx
  obtain rfl : x = 5 := by
    have hx : CoreState.awaitingKey 5 = .awaitingKey x := hx
    injection hx with hx
    exact hx.symm
  exact ⟨by decide, by decide⟩

/-- Two states that differ in STACK[1] alone, with SP = 1. -/
theorem witness_StaleStackEntriesAreNeverObserved :
    let s := placed 0x00EE (stackOf 1)
    let s' := { s with stack := s.stack.set 1 0x400 }
    s' = { s with stack := s'.stack, replies := s'.replies } ∧ (∀ k : Fin 16, k.val < s.sp.val → s.stack[k.val] = s'.stack[k.val]) ∧
      s.stack[1] ≠ s'.stack[1] ∧ step s = next (stateOf (step s)) ∧ s'.replies = s.replies ∧ ¬ s.asksStale := by
  refine ⟨rfl, by decide, by decide, rfl, rfl, ?_⟩
  rintro ⟨asked, rest, k, h, -⟩
  cases h

/-- The other side of its last clause: a READ that asks for STACK[1] with SP = 1. -/
theorem witness_StaleStackEntriesAreNeverObserved_asked : (script [.read [.stack 1]] (stackOf 1)).asksStale :=
  ⟨_, _, _, rfl, .head _, by decide⟩

theorem witness_ProgramsNeverReadTheHostsState :
    let s := regs [(1, 7)]
    let s' := { s with st := 9, redraw := true, latch := faulted.latch }
    s' = { s with st := s'.st, redraw := s'.redraw, latch := s'.latch } ∧ s.st ≠ s'.st ∧
      exec (.ldVxNn 1 2) s = next (stateOf (exec (.ldVxNn 1 2) s)) := ⟨rfl, by decide, rfl⟩

end Tests
end Sys2Proof
end

/-! # 10_state.md: the elements of the state, what writes them and what reads them

The layer first: what the key wait, RET, CALL, DXYN, the host's script and RESET do, then `Effect`, which says once for
all 34 instructions what each kind of them writes. The obligations follow from it. -/

namespace Sys2Proof
namespace Machine

open Host.Outcome (next)

variable {s t : State}

/-! ### Rules of single operations -/

theorem State.eq_of_readV_writeV_ne (s : State) {x k : RegIdx} {b : Byte}
    (h : (s.writeV x b).readV k ≠ s.readV k) : k = x := by
  rw [State.readV_writeV] at h
  by_contra hk
  exact h (if_neg hk)

theorem State.loadRegistersUpTo_frame (s : State) (x : RegIdx) (a : Nat) :
    s.loadRegistersUpTo x a = { s with v := (s.loadRegistersUpTo x a).v } := by
  simp only [State.loadRegistersUpTo]

theorem State.registersUpTo_congr {s' : State} {x : RegIdx} (h : ∀ k ≤ x, s.readV k = s'.readV k) :
    s.registersUpTo x = s'.registersUpTo x := by
  refine List.ext_getElem (by simp [State.length_registersUpTo]) fun k hk hk' => ?_
  rw [State.length_registersUpTo] at hk
  rw [State.getElem_registersUpTo, State.getElem_registersUpTo]
  exact h ⟨k, by omega⟩ (Fin.le_def.mpr (Nat.le_of_lt_succ hk))

theorem rangeFits_le_memSize {base count : Nat} (h : rangeFits base count = true) (hc : 0 < count) :
    base + count ≤ memSize := by
  rw [rangeFits_iff] at h
  simp only [memSize]
  omega

theorem execRet_of_zero (s : State) (h : s.sp.val = 0) :
    exec .ret s = next (s.raiseFault .stackUnderflow (encode .ret) 0) := if_pos h
theorem execRet_of_ne_zero (s : State) (h : s.sp.val ≠ 0) : exec .ret s = next s.popReturn := if_neg h
theorem execCall_of_lt (s : State) (nnn : BitVec 12) (h : s.sp.val < 16) :
    exec (.call nnn) s = next ((s.pushPc h).jump (addressOperand nnn)) := dif_pos h
theorem execCall_of_not_lt (s : State) (nnn : BitVec 12) (h : ¬ s.sp.val < 16) :
    exec (.call nnn) s = next (s.raiseFault .stackOverflow (encode (.call nnn)) 16) := dif_neg h

/-- DXYN draws, with VF a flag, or takes a fault. -/
theorem exec_drw_cases {x y : RegIdx} {n : Nat} (h : exec (.drw x y n) s = next t) :
    (∃ fb' collision, t = ({ s with fb := fb', redraw := true }.writeV regF (flagByte collision)).advance) ∨
    (∃ code info, code ∈ [FaultCode.stackOverflow, .stackUnderflow, .addrMem, .addrFb, .addrKey] ∧
      t = s.raiseFault code (encode (.drw x y n)) info) := by
  by_cases hr : rangeFits s.i.toNat n = true
  · by_cases hon :
        (setBits (s.readBytes s.i.toNat n) (s.readV x).toNat (s.readV y).toNat).all onScreen = true
    · obtain ⟨fb', -, he⟩ := exec_drw_drawn x y n hr hon
      rw [he] at h
      cases h
      exact .inl ⟨fb', _, rfl⟩
    · simp only [exec, execDrw, hr, if_true, if_neg hon] at h
      cases h
      exact .inr ⟨_, _, by simp, rfl⟩
  · simp only [exec, execDrw, if_neg hr] at h
    cases h
    exact .inr ⟨_, _, by simp, rfl⟩

theorem execLdVxK_of_nil (s : State) (x : RegIdx) (h : s.pressedKeys = []) :
    exec (.ldVxK x) s = next { s with core := .awaitingKey x } := by
  simp [exec, execLdVxK, h]

theorem execLdVxK_of_cons (s : State) (x : RegIdx) {first : RegIdx} {others : List RegIdx}
    (h : s.pressedKeys = first :: others) : exec (.ldVxK x) s = next (s.recordKey x first others) := by
  simp [exec, execLdVxK, h]

/-- A recorded key whole, the count of draws with it. -/
theorem State.recordKey_eq (s : State) (x first : RegIdx) (others : List RegIdx) :
    s.recordKey x first others =
      { s.writeV x (BitVec.ofNat 8 (s.selectKey first others).val) with
        pc := s.pc + 2
        keyDraws := if s.params.keySelect = .draw then s.keyDraws + 1 else s.keyDraws } := by
  unfold State.recordKey State.countKeyDraw
  split <;> simp_all [State.advance]

theorem State.pollKey_of_nil (s : State) (x : RegIdx) (h : s.pressedKeys = []) : s.pollKey x = s := by
  simp [State.pollKey, h]

theorem State.pollKey_of_cons (s : State) (x : RegIdx) {first : RegIdx} {others : List RegIdx}
    (h : s.pressedKeys = first :: others) : s.pollKey x = { s.recordKey x first others with core := .fetching } := by
  simp [State.pollKey, h]

/-- The poll of a waiting core writes a register, pc, the core state and the draw count. -/
theorem State.pollKey_frame (s : State) (x : RegIdx) :
    s.pollKey x = { s with v := (s.pollKey x).v, pc := (s.pollKey x).pc, core := (s.pollKey x).core
                           keyDraws := (s.pollKey x).keyDraws } := by
  cases hkeys : s.pressedKeys with
  | nil => rw [s.pollKey_of_nil x hkeys]
  | cons first others => rw [s.pollKey_of_cons x hkeys, State.recordKey_eq]; rfl

theorem State.hostReset_params (s : State) (image : List Byte) : (s.hostReset image).params = s.params := by
  unfold State.hostReset; split <;> rfl

/-- Taking the next operation from the script changes nothing else. -/
theorem State.nextOp_frame (s : State) : s.nextOp.2 = { s with hostOps := s.nextOp.2.hostOps } := by
  unfold State.nextOp; split <;> rfl

theorem State.hostOps_of_nextOp_read {asked : List StateElement} (h : s.nextOp.1 = .read asked) :
    ∃ rest, s.hostOps = .read asked :: rest := by
  unfold State.nextOp at h
  split at h
  · cases h
  · cases h; exact ⟨_, ‹_›⟩

/-! ### What an instruction can leave of a state -/

/-- The eight instructions that can raise a fault (60_exceptions.md R231). -/
def mayFault (i : Instr) : Prop :=
  i = .ret ∨ (∃ nnn, i = .call nnn) ∨ (∃ x, i = .ldBVx x) ∨ (∃ x, i = .ldMemVx x) ∨
    (∃ x, i = .ldVxMem x) ∨ (∃ x y n, i = .drw x y n) ∨ (∃ x, i = .skp x) ∨ (∃ x, i = .sknp x)

/-- The effects of the instructions by kind, each with the elements it writes spelled out: `Effect i s t` says that
`i` may take `s` to `t`. A fault, and the start of a key wait, leave pc; the jumps set it; the others add to it. -/
inductive Effect : Instr → State → State → Prop
  /-- A fault is raised and nothing is written (R233, R234). -/
  | fault {i : Instr} {s : State} (code info) (hi : mayFault i)
      (hcode : code ∈ [FaultCode.stackOverflow, .stackUnderflow, .addrMem, .addrFb, .addrKey]) :
      Effect i s (s.raiseFault code (encode i) info)
  /-- FX0A with no key pressed (R213). -/
  | wait {s : State} (x) : Effect (.ldVxK x) s { s with core := .awaitingKey x }
  /-- Only general registers, those of R22, are written. -/
  | registers {i : Instr} {s : State} (v' randDraws' keyDraws')
      (hv : ∀ k : RegIdx, v'[k.val] ≠ s.v[k.val] → k ∈ regWrites i) :
      Effect i s { s with v := v', pc := s.pc + 2, randDraws := randDraws', keyDraws := keyDraws' }
  /-- A skip (R120). -/
  | skip {i : Instr} {s : State} (condition) : Effect i s (s.skipIf condition)
  /-- 1NNN and BNNN (R122, R128). -/
  | jump {i : Instr} {s : State} (target) (htarget : target.toNat ≤ 0x10FE) : Effect i s (s.jump target)
  /-- 2NNN with a stack that is not full (R123). -/
  | call {s : State} (nnn) (hsp) : Effect (.call nnn) s ((s.pushPc hsp).jump (addressOperand nnn))
  /-- 00EE with a stack that is not empty (R121). -/
  | ret {s : State} (hsp : s.sp.val ≠ 0) : Effect .ret s s.popReturn
  /-- ANNN, FX1E and FX29 (R170 to R172). -/
  | index {i : Instr} {s : State} (i')
      (hi : (∃ nnn, i = .ldINnn nnn) ∨ (∃ x, i = .addIVx x) ∨ (∃ x, i = .ldFVx x)) :
      Effect i s { s with i := i' }.advance
  /-- FX15 (R215). -/
  | delay {s : State} (x) : Effect (.ldDtVx x) s { s with dt := s.readV x }.advance
  /-- FX18 (R216). -/
  | sound {s : State} (x) : Effect (.ldStVx x) s { s with st := s.readV x }.advance
  /-- 00E0 (R190). -/
  | clear {s : State} (fb') : Effect .cls s { s with fb := fb', redraw := true }.advance
  /-- DXYN on the screen (R192). -/
  | draw {s : State} (x y n fb' collision) :
      Effect (.drw x y n) s ({ s with fb := fb', redraw := true }.writeV regF (flagByte collision)).advance
  /-- FX33 and FX55 inside memory (R173, R174). -/
  | store {i : Instr} {s : State} (bytes) (hi : (∃ x, i = .ldBVx x) ∨ (∃ x, i = .ldMemVx x))
      (hfits : s.i.toNat + bytes.length ≤ memSize) :
      Effect i s (s.storeBytes s.i.toNat bytes).advance

/-- One general register written, and pc + 2. -/
theorem Effect.ofWriteV (i : Instr) (x : RegIdx) (b : Byte) (randDraws' keyDraws' : Nat) (hx : x ∈ regWrites i) :
    Effect i s { s.writeV x b with pc := s.pc + 2, randDraws := randDraws', keyDraws := keyDraws' } := by
  refine .registers _ _ _ fun k hk => ?_
  rwa [s.eq_of_readV_writeV_ne (b := b) hk]

theorem Effect.ofWriteResultThenFlag (i : Instr) (dest : RegIdx) (result flag : Byte) (hi : regWrites i = [dest, 15]) :
    Effect i s (s.writeResultThenFlag dest result flag).advance := by
  refine .registers _ _ _ fun k hk => ?_
  have hk : (s.writeResultThenFlag dest result flag).readV k ≠ s.readV k := hk
  rw [State.readV_writeResultThenFlag] at hk
  split at hk
  · simp [*]
  · split at hk
    · simp [*]
    · exact absurd rfl hk

theorem Effect.ofLoadRegistersUpTo (x : RegIdx) (a : Nat) :
    Effect (.ldVxMem x) s (s.loadRegistersUpTo x a).advance := by
  have hv (k : RegIdx) (hk : (s.loadRegistersUpTo x a).readV k ≠ s.readV k) : k ∈ regWrites (.ldVxMem x) := by
    rw [State.readV_loadRegistersUpTo] at hk
    split at hk
    · simpa [regWrites]
    · exact absurd rfl hk
  rw [State.loadRegistersUpTo_frame] at hv ⊢
  generalize (s.loadRegistersUpTo x a).v = v' at hv ⊢
  exact .registers v' _ _ hv

/-- Every next state of an instruction is one of its effects. -/
theorem exec_effect (i : Instr) (h : exec i s = next t) : Effect i s t := by
  cases i
  case ldVxNn | addVxNn | ldVxVy | orVxVy | andVxVy | xorVxVy | rnd | ldVxDt =>
    cases h; exact .ofWriteV _ _ _ _ _ (by simp [regWrites])
  case addVxVy | subVxVy | shrVxVy | subnVxVy | shlVxVy =>
    cases h; exact .ofWriteResultThenFlag _ _ _ _ rfl
  case seVxNn | sneVxNn | seVxVy | sneVxVy => cases h; exact .skip _
  case cls => cases h; exact .clear _
  case ldDtVx x => cases h; exact .delay x
  case ldStVx x => cases h; exact .sound x
  case ldINnn nnn => cases h; exact .index _ (.inl ⟨nnn, rfl⟩)
  case addIVx x => cases h; exact .index _ (.inr (.inl ⟨x, rfl⟩))
  case ldFVx x => cases h; exact .index _ (.inr (.inr ⟨x, rfl⟩))
  case jp nnn =>
    cases h
    refine .jump _ ?_
    rw [toNat_addressOperand]
    omega
  case jpV0 nnn =>
    cases h
    refine .jump _ ?_
    have := (s.readV 0).isLt
    rw [toNat_offsetAddress]
    omega
  case ldVxK x =>
    cases hkeys : s.pressedKeys with
    | nil => rw [execLdVxK_of_nil s x hkeys] at h; cases h; exact .wait x
    | cons first others =>
      rw [execLdVxK_of_cons s x hkeys, State.recordKey_eq] at h
      cases h
      exact .ofWriteV _ _ _ _ _ (by simp [regWrites])
  case ret =>
    by_cases hsp : s.sp.val = 0
    · rw [execRet_of_zero s hsp] at h; cases h; exact .fault _ _ (by simp [mayFault]) (by simp)
    · rw [execRet_of_ne_zero s hsp] at h; cases h; exact .ret hsp
  case call nnn =>
    by_cases hsp : s.sp.val < 16
    · rw [execCall_of_lt s nnn hsp] at h; cases h; exact .call nnn hsp
    · rw [execCall_of_not_lt s nnn hsp] at h; cases h; exact .fault _ _ (by simp [mayFault]) (by simp)
  case skp | sknp =>
    simp only [exec, execSkp, execSknp] at h
    split at h <;> cases h
    · exact .skip _
    · exact .fault _ _ (by simp [mayFault]) (by simp)
  case ldBVx x =>
    simp only [exec, execLdBVx] at h
    split at h <;> cases h
    · exact .store _ (.inl ⟨x, rfl⟩) (rangeFits_le_memSize ‹_› (Nat.succ_pos 2))
    · exact .fault _ _ (by simp [mayFault]) (by simp)
  case ldMemVx x =>
    simp only [exec, execLdMemVx] at h
    split at h <;> cases h
    · refine .store _ (.inr ⟨x, rfl⟩) ?_
      rw [State.length_registersUpTo]
      exact rangeFits_le_memSize ‹_› (by omega)
    · exact .fault _ _ (by simp [mayFault]) (by simp)
  case ldVxMem x =>
    simp only [exec, execLdVxMem] at h
    split at h <;> obtain rfl := Host.Outcome.next.inj h
    · exact .ofLoadRegistersUpTo x _
    · exact .fault _ _ (by simp [mayFault]) (by simp)
  case drw x y n =>
    obtain ⟨fb', collision, rfl⟩ | ⟨code, info, hcode, rfl⟩ := exec_drw_cases h
    · exact .draw x y n fb' collision
    · exact .fault code info (by simp [mayFault]) hcode

/-! ### The writers of each element (R22 to R34) -/

theorem Effect.mem_regWrites {i : Instr} (he : Effect i s t) (k : RegIdx) (hk : t.readV k ≠ s.readV k) :
    k ∈ regWrites i := by
  cases he
  case registers v' _ _ hv => exact hv k hk
  case draw x y n fb' collision =>
    rw [State.eq_of_readV_writeV_ne { s with fb := fb', redraw := true } hk]
    exact .head _
  all_goals exact absurd rfl hk

/-- What an effect writes besides the general registers. -/
theorem Effect.writers {i : Instr} (he : Effect i s t) :
    (t.i ≠ s.i → (∃ nnn, i = .ldINnn nnn) ∨ (∃ x, i = .addIVx x) ∨ (∃ x, i = .ldFVx x)) ∧
    (t.sp ≠ s.sp → i = .ret ∨ ∃ nnn, i = .call nnn) ∧
    (t.stack ≠ s.stack → ∃ nnn, i = .call nnn) ∧
    (t.dt ≠ s.dt → ∃ x, i = .ldDtVx x) ∧
    (t.st ≠ s.st → ∃ x, i = .ldStVx x) ∧
    (t.fb ≠ s.fb ∨ t.redraw ≠ s.redraw → i = .cls ∨ ∃ x y n, i = .drw x y n) ∧
    (t.mem ≠ s.mem → (∃ x, i = .ldBVx x) ∨ (∃ x, i = .ldMemVx x)) ∧
    (t.pc ≠ s.pc → t.core = s.core ∧ t.latch = s.latch) ∧
    (t.core ≠ s.core → (∃ x, i = .ldVxK x ∧ t.core = .awaitingKey x) ∨ (mayFault i ∧ t.core = .faulted)) ∧
    (t.latch ≠ s.latch → mayFault i ∧ t.core = .faulted) ∧
    t.key = s.key ∧ t.params = s.params := by
  cases he
  case fault code info hcode hi => simp [hi]
  case index i' hi => simp [hi]
  case store bytes hi hfits => simp [hi]
  all_goals simp

/-- Settles O25: each kind of effect leaves every element but its own. -/
theorem eachStateElementHasItsWriters : Obligations.EachStateElementHasItsWriters := fun i _ _ h =>
  have he := exec_effect i h
  ⟨he.mem_regWrites, he.writers⟩

/-- Only RET and CALL touch the return stack. -/
theorem exec_stack_frame {i : Instr} (hret : i ≠ .ret) (hcall : ∀ nnn, i ≠ .call nnn) (h : exec i s = next t) :
    t.sp = s.sp ∧ t.stack = s.stack := by
  obtain ⟨-, hsp, hstack, -⟩ := (exec_effect i h).writers
  have hcall : ¬ ∃ nnn, i = .call nnn := fun ⟨nnn, hi⟩ => hcall nnn hi
  exact ⟨by_contra fun hne => (hsp hne).elim hret hcall, by_contra fun hne => hcall (hstack hne)⟩

/-! ### The keypad and the parameters (R31, R34) -/

/-- What no instruction writes: the keypad, the parameters and the host's answers. -/
theorem exec_host_frame {i : Instr} (h : exec i s = next t) :
    t.key = s.key ∧ t.params = s.params ∧ t.replies = s.replies := by
  rcases exec_cases i h with ⟨-, ht⟩ | ⟨_, _, ht, -⟩ <;> rw [ht] <;> exact ⟨rfl, rfl, rfl⟩

theorem cycle_host_frame (h : cycle s = next t) :
    t.key = s.key ∧ t.params = s.params ∧ t.replies = s.replies := by
  rcases cycle_cases h with ⟨-, rfl⟩ | ⟨x, -, rfl⟩ | ⟨-, -, rfl⟩ | ⟨-, -, i, u, -, hu, rfl⟩ | ⟨-, -, -, rfl⟩
  · exact ⟨rfl, rfl, rfl⟩
  · rw [State.cycleTick_frame, State.pollKey_frame]; exact ⟨rfl, rfl, rfl⟩
  · exact ⟨rfl, rfl, rfl⟩
  · have hframe := exec_host_frame hu
    rw [State.cycleTick_frame]; exact hframe
  · rw [State.cycleTick_frame]; exact ⟨rfl, rfl, rfl⟩

/-- Settles O51: of the seven kinds of step, only SET_KEYS and RESET have another keypad after them. -/
theorem onlySetKeysAndResetWriteTheKeypad : Obligations.OnlySetKeysAndResetWriteTheKeypad := by
  intro s t h
  rcases step_cases h with ⟨-, -, hc⟩ | ⟨rest, -, -, hc⟩ | ⟨rest, -, -, rfl⟩ |
    ⟨keys, rest, hops, rfl⟩ | ⟨_, rest, -, rfl⟩ | ⟨rest, -, rfl⟩ | ⟨image, rest, hops, rfl⟩
  · obtain ⟨hkey, hparams, -⟩ := cycle_host_frame hc
    exact ⟨hparams, fun hne => absurd hkey hne⟩
  · obtain ⟨hkey, hparams, -⟩ := cycle_host_frame hc
    exact ⟨hparams, fun hne => absurd hkey hne⟩
  · rw [State.tick_frame]; exact ⟨rfl, fun hne => absurd rfl hne⟩
  · exact ⟨rfl, fun _ => .inl ⟨rest, hops⟩⟩
  · exact ⟨rfl, fun hne => absurd rfl hne⟩
  · exact ⟨rfl, fun hne => absurd rfl hne⟩
  · exact ⟨State.hostReset_params _ image, fun _ => .inr ⟨image, rest, hops⟩⟩

/-! ### The invariant -/

/-- The invariant looks only at memory, the parameters, the latch, the core state, pc and the stack. -/
theorem State.Inv.congr (h : s.Inv) (hmem : t.mem = s.mem) (hparams : t.params = s.params) (hlatch : t.latch = s.latch)
    (hcore : t.core = s.core) (hpc : t.pc = s.pc) (hstack : t.stack = s.stack) : t.Inv where
  memory_canonical := by rw [hmem, hparams]; exact h.memory_canonical
  latched_iff_faulted := by rw [hlatch, hcore]; exact h.latched_iff_faulted
  unknown_never_latched := by rw [hlatch]; exact h.unknown_never_latched
  pc_bounded := by rw [hpc]; exact h.pc_bounded
  stack_fetchable := by rw [hstack]; exact h.stack_fetchable
  waiting_at_ldVxK x hx := by
    have hfetch : t.fetchOpcode = s.fetchOpcode := by
      simp only [State.fetchOpcode, hpc, State.readByte_congr s hmem hparams]
    have hcan : t.canFetch = s.canFetch := by simp only [State.canFetch, hpc]
    rw [hfetch, hcan]
    exact h.waiting_at_ldVxK x (hcore ▸ hx)

theorem State.Inv.tick (h : s.Inv) : s.tick.Inv := by
  rw [s.tick_frame]; exact h.congr rfl rfl rfl rfl rfl rfl

theorem State.Inv.cycleTick (h : s.Inv) : s.cycleTick.Inv := by
  rw [s.cycleTick_frame]; exact h.congr rfl rfl rfl rfl rfl rfl

/-- Outside Faulted nothing is latched. -/
theorem State.Inv.latch_clear (h : s.Inv) (hcore : s.core ≠ .faulted) : s.latch.code = .noFault := by
  by_contra hcode
  exact hcore (h.latched_iff_faulted.mp hcode)

/-- A state in Fetching meets the invariant when its latch is clear, its memory canonical, and its pc and return
addresses in bounds. -/
theorem State.Inv.of_fetching (hcore : t.core = .fetching) (hlatch : t.latch.code = .noFault)
    (hmem : t.mem.wf t.params.font = true) (hpc : t.pc.toNat ≤ 0x10FE)
    (hstack : ∀ k : Fin 16, t.stack[k.val].toNat ≤ 0xFFE) : t.Inv where
  memory_canonical := hmem
  latched_iff_faulted := by simp [hcore, hlatch]
  unknown_never_latched := by simp [hlatch]
  pc_bounded := hpc
  stack_fetchable := hstack
  waiting_at_ldVxK x hx := by rw [hcore] at hx; cases hx

/-- Raising a fault keeps the invariant: the code is latched as the core becomes Faulted. -/
theorem State.Inv.raiseFault (h : s.Inv) (code : FaultCode) (op info : Word) (hno : code ≠ .noFault)
    (hunknown : code ≠ .unknownOpcode) : (s.raiseFault code op info).Inv where
  memory_canonical := h.memory_canonical
  latched_iff_faulted := ⟨fun _ => rfl, fun _ => hno⟩
  unknown_never_latched := hunknown
  pc_bounded := h.pc_bounded
  stack_fetchable := h.stack_fetchable
  waiting_at_ldVxK _ hx := by cases hx

theorem pc_add_bounded (pc : Word) (hpc : pc.toNat ≤ 0xFFE) :
    (pc + 2).toNat ≤ 0x10FE ∧ (pc + 4).toNat ≤ 0x10FE := by
  constructor <;> bv_omega

theorem Effect.inv {i : Instr} (he : Effect i s t) (h : s.Inv) (hcore : s.core = .fetching)
    (hcan : s.canFetch = true) (hdecode : decodeWord s.fetchOpcode = .ok i) : t.Inv := by
  have hlatch := h.latch_clear (by simp [hcore])
  have hpc : s.pc.toNat ≤ 0xFFE := State.canFetch_iff.mp hcan
  obtain ⟨hpc2, hpc4⟩ := pc_add_bounded s.pc hpc
  cases he
  case fault code info hcode _ =>
    exact h.raiseFault _ _ _ (by rintro rfl; simp at hcode) (by rintro rfl; simp at hcode)
  case wait x =>
    exact
      { memory_canonical := h.memory_canonical
        latched_iff_faulted := by simp [hlatch]
        unknown_never_latched := h.unknown_never_latched
        pc_bounded := h.pc_bounded
        stack_fetchable := h.stack_fetchable
        waiting_at_ldVxK := by rintro _ ⟨⟩; exact ⟨hcan, hdecode⟩ }
  case jump target htarget => exact .of_fetching hcore hlatch h.memory_canonical htarget h.stack_fetchable
  case skip condition =>
    refine .of_fetching hcore hlatch h.memory_canonical ?_ h.stack_fetchable
    rw [State.skipIf_pc]
    split
    · exact hpc4
    · exact hpc2
  case call nnn hsp =>
    refine .of_fetching hcore hlatch h.memory_canonical ?_ fun k => ?_
    · rw [State.jump_pc, toNat_addressOperand]; omega
    · simp only [State.jump_stack, State.pushPc_stack, Vector.getElem_set]
      split
      · exact hpc
      · exact h.stack_fetchable k
  case ret hsp =>
    refine .of_fetching hcore hlatch h.memory_canonical ?_ h.stack_fetchable
    have := h.stack_fetchable ⟨s.sp.val - 1, by omega⟩
    exact (pc_add_bounded _ this).1
  case store bytes _ hfits =>
    exact .of_fetching hcore hlatch (Memory.wf_store _ _ _ hfits h.memory_canonical) hpc2 h.stack_fetchable
  case registers | index | delay | sound | clear | draw =>
    exact .of_fetching hcore hlatch h.memory_canonical hpc2 h.stack_fetchable

theorem State.Inv.pollKey (h : s.Inv) {x : RegIdx} (hcore : s.core = .awaitingKey x) : (s.pollKey x).Inv := by
  cases hkeys : s.pressedKeys with
  | nil => rw [s.pollKey_of_nil x hkeys]; exact h
  | cons first others =>
    obtain ⟨hcan, -⟩ := h.waiting_at_ldVxK x hcore
    obtain ⟨hpc2, -⟩ := pc_add_bounded s.pc (State.canFetch_iff.mp hcan)
    rw [s.pollKey_of_cons x hkeys, State.recordKey_eq]
    exact .of_fetching rfl (h.latch_clear (by simp [hcore])) h.memory_canonical hpc2 h.stack_fetchable

theorem cycle_keeps_inv (h : s.Inv) (hc : cycle s = next t) : t.Inv := by
  rcases cycle_cases hc with ⟨-, rfl⟩ | ⟨x, hcore, rfl⟩ | ⟨-, -, rfl⟩ | ⟨hcore, hcan, i, u, hi, hu, rfl⟩ |
    ⟨hcore, hcan, -, rfl⟩
  · exact h
  · exact (h.pollKey hcore).cycleTick
  · exact h.raiseFault _ _ _ (by decide) (by decide)
  · exact ((exec_effect i hu).inv h hcore hcan hi).cycleTick
  · obtain ⟨hpc2, -⟩ := pc_add_bounded s.pc (State.canFetch_iff.mp hcan)
    have hlatch := h.latch_clear (by simp [hcore])
    exact State.Inv.cycleTick (.of_fetching hcore hlatch h.memory_canonical hpc2 h.stack_fetchable)

theorem State.Inv.hostReset (h : s.Inv) (image : List Byte) : (s.hostReset image).Inv := by
  cases hfits : imageFits image with
  | false =>
    rw [State.hostReset_of_not_fits hfits]
    exact h.congr rfl rfl rfl rfl rfl rfl
  | true =>
    rw [State.hostReset_of_fits hfits]
    refine .of_fetching rfl rfl (loadedMemory_wf _ _ hfits) ?_ fun k => ?_
    · show pcReset.toNat ≤ 0x10FE
      decide
    · simp [State.resetCore, State.reset]

/-- Settles O57: the invariant is inductive, operation by operation. -/
theorem everyStepKeepsTheInvariant : Obligations.EveryStepKeepsTheInvariant := by
  intro s t h hstep
  have hops (rest) : { s with hostOps := rest }.Inv := h.congr rfl rfl rfl rfl rfl rfl
  rcases step_cases hstep with ⟨-, -, hc⟩ | ⟨rest, -, -, hc⟩ | ⟨rest, -, -, rfl⟩ |
    ⟨_, rest, -, rfl⟩ | ⟨_, rest, -, rfl⟩ | ⟨rest, -, rfl⟩ | ⟨image, rest, -, rfl⟩
  · exact cycle_keeps_inv h hc
  · exact cycle_keeps_inv (hops rest) hc
  · exact (hops rest).tick
  · exact h.congr rfl rfl rfl rfl rfl rfl
  · exact h.congr rfl rfl rfl rfl rfl rfl
  · exact h.congr rfl rfl rfl rfl rfl rfl
  · exact (hops rest).hostReset image

/-- Settles O56. -/
theorem resetMeetsTheInvariant : Obligations.ResetMeetsTheInvariant :=
  .of_fetching rfl rfl reset_mem_wf (by decide) (by decide)

/-! ### What instructions do not read -/

/-- `s` with other values in the host's elements (ST, redraw, the latch), the stack and the answers. -/
def State.replaceUnread (s : State) (st' : Byte) (redraw' : Bool) (latch' : FaultLatch) (stack' : Vector Word 16)
    (replies' : List HostReply) : State :=
  { s with st := st', redraw := redraw', latch := latch', stack := stack', replies := replies' }

/-- An instruction other than RET and CALL does the same whatever the host's elements, the stack and the answers hold:
it leaves the stack and the answers alone, and where the host's elements do not differ before it, they do not after. -/
theorem exec_replaceUnread {i : Instr} (hret : i ≠ .ret) (hcall : ∀ nnn, i ≠ .call nnn) (h : exec i s = next t)
    (st' : Byte) (redraw' : Bool) (latch' : FaultLatch) (stack' : Vector Word 16) (replies' : List HostReply) :
    ∃ st'' redraw'' latch'',
      exec i (s.replaceUnread st' redraw' latch' stack' replies') =
        next (t.replaceUnread st'' redraw'' latch'' stack' replies') ∧
      ((st', redraw', latch') = (s.st, s.redraw, s.latch) → (st'', redraw'', latch'') = (t.st, t.redraw, t.latch)) := by
  cases i
  case ret => exact absurd rfl hret
  case call nnn => exact absurd rfl (hcall nnn)
  case skp | sknp | ldBVx | ldMemVx =>
    simp only [exec, execSkp, execSknp, execLdBVx, execLdMemVx] at h
    split at h <;> cases h
    · exact ⟨_, _, _, if_pos ‹_›, by rintro ⟨⟩; rfl⟩
    · exact ⟨_, _, _, if_neg ‹_›, by rintro ⟨⟩; rfl⟩
  case ldVxMem x =>
    simp only [exec, execLdVxMem] at h
    split at h <;> obtain rfl := Host.Outcome.next.inj h
    · refine ⟨st', redraw', latch', (if_pos ‹_›).trans ?_, by rintro ⟨⟩; simp⟩
      simp only [State.loadRegistersUpTo, State.advance]
      rfl
    · exact ⟨_, _, _, if_neg ‹_›, by rintro ⟨⟩; rfl⟩
  case ldVxK x =>
    cases hkeys : s.pressedKeys with
    | nil =>
      rw [execLdVxK_of_nil s x hkeys] at h
      cases h
      exact ⟨_, _, _, execLdVxK_of_nil _ x hkeys, by rintro ⟨⟩; rfl⟩
    | cons first others =>
      rw [execLdVxK_of_cons s x hkeys, State.recordKey_eq] at h
      cases h
      have hkeys' : (s.replaceUnread st' redraw' latch' stack' replies').pressedKeys = first :: others := hkeys
      refine ⟨st', redraw', latch', ?_, by rintro ⟨⟩; rfl⟩
      rw [execLdVxK_of_cons _ x hkeys', State.recordKey_eq]
      rfl
  case drw x y n =>
    simp only [exec, execDrw] at h
    split at h
    · split at h <;> obtain rfl := Host.Outcome.next.inj h
      · exact ⟨_, _, _, (if_pos ‹_›).trans (if_pos ‹_›), by rintro ⟨⟩; rfl⟩
      · exact ⟨_, _, _, (if_pos ‹_›).trans (if_neg ‹_›), by rintro ⟨⟩; rfl⟩
    · obtain rfl := Host.Outcome.next.inj h
      exact ⟨_, _, _, if_neg ‹_›, by rintro ⟨⟩; rfl⟩
  all_goals
    cases h
    exact ⟨_, _, _, rfl, by rintro ⟨⟩; rfl⟩

/-- Settles O59: RET and CALL by their two outcomes, the others by `exec_replaceUnread`. -/
theorem programsNeverReadTheHostsState : Obligations.ProgramsNeverReadTheHostsState := by
  intro i s s' t hs h
  generalize s'.st = st', s'.redraw = redraw', s'.latch = latch' at hs
  subst hs
  by_cases hret : i = .ret
  · subst hret
    by_cases hsp : s.sp.val = 0
    · rw [execRet_of_zero s hsp] at h
      cases h
      exact ⟨_, execRet_of_zero _ hsp, rfl⟩
    · rw [execRet_of_ne_zero s hsp] at h
      cases h
      exact ⟨_, execRet_of_ne_zero _ hsp, rfl⟩
  by_cases hcall : ∃ nnn, i = .call nnn
  · obtain ⟨nnn, rfl⟩ := hcall
    by_cases hsp : s.sp.val < 16
    · rw [execCall_of_lt s nnn hsp] at h
      cases h
      exact ⟨_, execCall_of_lt { s with st := st', redraw := redraw', latch := latch' } nnn hsp, rfl⟩
    · rw [execCall_of_not_lt s nnn hsp] at h
      cases h
      exact ⟨_, execCall_of_not_lt _ nnn hsp, rfl⟩
  · have hcall := not_exists.mp hcall
    obtain ⟨-, hstack⟩ := exec_stack_frame hret hcall h
    obtain ⟨-, -, hreplies⟩ := exec_host_frame h
    obtain ⟨st'', redraw'', latch'', he, -⟩ :=
      exec_replaceUnread hret hcall h st' redraw' latch' s.stack s.replies
    refine ⟨_, he, ?_⟩
    rw [← hstack, ← hreplies]
    rfl

/-! ### Stale stack entries are not observed (R26, R36) -/

/-- `s` with another stack and other answers. -/
def State.restock (s : State) (stack' : Vector Word 16) (replies' : List HostReply) : State :=
  { s with stack := stack', replies := replies' }

/-- Two stacks hold the same entries below depth `n`. -/
def AgreeBelow (n : Nat) (stack stack' : Vector Word 16) : Prop :=
  ∀ k : Fin 16, k.val < n → stack[k.val] = stack'[k.val]

/-- The instruction's outcome on a state whose stack agrees below SP: the same but for a stack that agrees below the new
SP. -/
theorem exec_restock {i : Instr} {stack' : Vector Word 16} (replies' : List HostReply)
    (hs : AgreeBelow s.sp.val s.stack stack') (h : exec i s = next t) :
    ∃ stack'', exec i (s.restock stack' replies') = next (t.restock stack'' replies') ∧
      AgreeBelow t.sp.val t.stack stack'' := by
  by_cases hret : i = .ret
  · subst hret
    by_cases hsp : s.sp.val = 0
    · rw [execRet_of_zero s hsp] at h
      cases h
      exact ⟨stack', execRet_of_zero _ hsp, hs⟩
    · rw [execRet_of_ne_zero s hsp] at h
      cases h
      have htop : s.stack[s.sp.val - 1] = stack'[s.sp.val - 1] := hs ⟨s.sp.val - 1, by omega⟩ (Nat.sub_one_lt hsp)
      refine ⟨stack', (execRet_of_ne_zero (s.restock stack' replies') hsp).trans ?_, fun k hk => hs k ?_⟩
      · simp [State.popReturn, State.restock, htop]
      · exact lt_of_lt_of_le hk (Nat.sub_le ..)
  by_cases hcall : ∃ nnn, i = .call nnn
  · obtain ⟨nnn, rfl⟩ := hcall
    by_cases hsp : s.sp.val < 16
    · rw [execCall_of_lt s nnn hsp] at h
      cases h
      refine ⟨stack'.set s.sp.val s.pc, execCall_of_lt (s.restock stack' replies') nnn hsp, fun k hk => ?_⟩
      have hk : k.val < s.sp.val + 1 := hk
      simp only [State.jump_stack, State.pushPc_stack, Vector.getElem_set]
      split
      · rfl
      · exact hs k (by omega)
    · rw [execCall_of_not_lt s nnn hsp] at h
      cases h
      exact ⟨stack', execCall_of_not_lt _ nnn hsp, hs⟩
  · have hcall := not_exists.mp hcall
    obtain ⟨hsp, hstack⟩ := exec_stack_frame hret hcall h
    obtain ⟨st'', redraw'', latch'', he, hkeep⟩ :=
      exec_replaceUnread hret hcall h s.st s.redraw s.latch stack' replies'
    obtain ⟨rfl, rfl, rfl⟩ := hkeep rfl
    exact ⟨stack', he, by rwa [hsp, hstack]⟩

@[simp] theorem State.restock_tick (stack' : Vector Word 16) (replies' : List HostReply) :
    (s.restock stack' replies').tick = s.tick.restock stack' replies' := by
  by_cases h : s.core = .faulted
  · rw [s.tick_of_faulted h, (s.restock stack' replies').tick_of_faulted h]
  · unfold State.tick
    rw [if_neg h]
    exact if_neg h

@[simp] theorem State.restock_cycleTick (stack' : Vector Word 16) (replies' : List HostReply) :
    (s.restock stack' replies').cycleTick = s.cycleTick.restock stack' replies' := by
  rw [State.cycleTick_eq, State.cycleTick_eq, State.restock_tick]
  exact (apply_ite (State.restock · stack' replies') ..).symm

theorem State.restock_pollKey (x : RegIdx) (stack' : Vector Word 16) (replies' : List HostReply) :
    (s.restock stack' replies').pollKey x = (s.pollKey x).restock stack' replies' := by
  cases hkeys : s.pressedKeys with
  | nil => rw [s.pollKey_of_nil x hkeys, (s.restock stack' replies').pollKey_of_nil x hkeys]
  | cons first others =>
    rw [s.pollKey_of_cons x hkeys, (s.restock stack' replies').pollKey_of_cons x hkeys, State.recordKey_eq,
      State.recordKey_eq]
    rfl

@[simp] theorem State.restock_core (stack' : Vector Word 16) (replies' : List HostReply) :
    (s.restock stack' replies').core = s.core := rfl
@[simp] theorem State.restock_canFetch (stack' : Vector Word 16) (replies' : List HostReply) :
    (s.restock stack' replies').canFetch = s.canFetch := rfl
@[simp] theorem State.restock_fetchOpcode (stack' : Vector Word 16) (replies' : List HostReply) :
    (s.restock stack' replies').fetchOpcode = s.fetchOpcode := rfl
@[simp] theorem State.restock_reportUnknown (stack' : Vector Word 16) (replies' : List HostReply) (op : Word) :
    (s.restock stack' replies').reportUnknown op = (s.reportUnknown op).restock stack' replies' := rfl

theorem cycle_restock {stack' : Vector Word 16} (replies' : List HostReply)
    (hs : AgreeBelow s.sp.val s.stack stack') (h : cycle s = next t) :
    ∃ stack'', cycle (s.restock stack' replies') = next (t.restock stack'' replies') ∧
      AgreeBelow t.sp.val t.stack stack'' := by
  rcases cycle_cases h with ⟨hcore, rfl⟩ | ⟨x, hcore, rfl⟩ | ⟨hcore, hcan, rfl⟩ | ⟨hcore, hcan, i, u, hi, hu, rfl⟩ |
    ⟨hcore, hcan, ⟨e, he⟩, rfl⟩
  · exact ⟨stack', by simp [cycle, hcore], hs⟩
  · refine ⟨stack', by simp [cycle, hcore, State.restock_pollKey], ?_⟩
    rw [State.cycleTick_frame, State.pollKey_frame]
    exact hs
  · exact ⟨stack', by simp [cycle, fetchAndExecute, hcore, hcan]; rfl, hs⟩
  · obtain ⟨stack'', he, hu⟩ := exec_restock replies' hs hu
    refine ⟨stack'', by simp [cycle, fetchAndExecute, hcore, hcan, hi, he, tickAfter], ?_⟩
    rw [State.cycleTick_frame]
    exact hu
  · refine ⟨stack', ?_, ?_⟩
    · simp [cycle, fetchAndExecute, hcore, hcan, he, State.restock_reportUnknown]
    · rw [State.cycleTick_frame]
      exact hs

/-- READ's answer shows no entry at or above SP that it was not asked for. -/
theorem State.readOut_restock {stack' : Vector Word 16} (replies' : List HostReply) (asked : List StateElement)
    (hs : AgreeBelow s.sp.val s.stack stack') (hasked : ∀ k, .stack k ∈ asked → k.val < s.sp.val) :
    (s.restock stack' replies').readOut asked = s.readOut asked := by
  have helement (e) (he : e ∈ asked) : (s.restock stack' replies').element e = s.element e := by
    cases e with
    | stack k => exact congrArg BitVec.toNat (hs k (hasked k he)).symm
    | _ => rfl
  have hmap := List.map_congr_left fun e he => congrArg (Prod.mk e) (helement e he)
  simp only [State.readOut, hmap]
  rfl

theorem State.hostReset_restock {stack' : Vector Word 16} (replies' : List HostReply) (image : List Byte)
    (hs : AgreeBelow s.sp.val s.stack stack') :
    ∃ stack'' replies'', (s.restock stack' replies').hostReset image = (s.hostReset image).restock stack'' replies'' ∧
      AgreeBelow (s.hostReset image).sp.val (s.hostReset image).stack stack'' ∧
      (replies' = s.replies → replies'' = (s.hostReset image).replies) := by
  cases hfits : imageFits image with
  | true =>
    rw [State.hostReset_of_fits hfits, State.hostReset_of_fits hfits]
    exact ⟨State.reset.stack, _, rfl, fun k _ => rfl, by rintro rfl; rfl⟩
  | false =>
    rw [State.hostReset_of_not_fits hfits, State.hostReset_of_not_fits hfits]
    exact ⟨stack', _, rfl, hs, by rintro rfl; rfl⟩

/-- One host operation on a state whose stack agrees below SP: the same but for a stack that agrees below the new SP,
and for the answers, which differ only if they did before or the operation is a READ that asks for a stale entry. -/
theorem perform_restock (op : HostOp) {stack' : Vector Word 16} (replies' : List HostReply)
    (hs : AgreeBelow s.sp.val s.stack stack') (h : perform op s = next t) :
    ∃ stack'' replies'', perform op (s.restock stack' replies') = next (t.restock stack'' replies'') ∧
      AgreeBelow t.sp.val t.stack stack'' ∧
      (replies' = s.replies → (∀ asked k, op = .read asked → .stack k ∈ asked → k.val < s.sp.val) →
        replies'' = t.replies) := by
  cases op with
  | cycle =>
    simp only [perform] at h
    split at h
    · cases h
    · obtain ⟨stack'', hcycle, hagree⟩ := cycle_restock replies' hs h
      obtain ⟨-, -, hreplies⟩ := cycle_host_frame h
      exact ⟨stack'', replies', (if_neg ‹_›).trans hcycle, hagree, fun hr _ => hr.trans hreplies.symm⟩
  | tick =>
    simp only [perform] at h
    split at h <;> cases h
    refine ⟨stack', replies', (if_neg ‹_›).trans (congrArg next (State.restock_tick ..)), ?_⟩
    rw [State.tick_frame]
    exact ⟨hs, fun hr _ => hr⟩
  | setKeys keys => cases h; exact ⟨stack', replies', rfl, hs, fun hr _ => hr⟩
  | read asked =>
    cases h
    refine ⟨stack', _, rfl, hs, fun hr hasked => ?_⟩
    rw [State.readOut_restock replies' asked hs fun k => hasked asked k rfl, hr]
    rfl
  | ackRedraw => cases h; exact ⟨stack', replies', rfl, hs, fun hr _ => hr⟩
  | reset image =>
    cases h
    obtain ⟨stack'', replies'', hreset, hagree, hreplies⟩ := State.hostReset_restock replies' image hs
    exact ⟨stack'', replies'', congrArg next hreset, hagree, fun hr _ => hreplies hr⟩

theorem State.nextOp_restock (s : State) (stack' : Vector Word 16) (replies' : List HostReply) :
    (s.restock stack' replies').nextOp = (s.nextOp.1, s.nextOp.2.restock stack' replies') := by
  cases h : s.hostOps <;> simp [State.nextOp, State.restock, h]

/-- Settles O58, by `perform_restock` on the operation the script names. -/
theorem staleStackEntriesAreNeverObserved : Obligations.StaleStackEntriesAreNeverObserved := by
  intro s s' t hs hagree h
  have hagree : AgreeBelow s.nextOp.2.sp.val s.nextOp.2.stack s'.stack := by rw [State.nextOp_frame]; exact hagree
  obtain ⟨stack'', replies'', hperform, hagree', hreplies⟩ := perform_restock s.nextOp.1 s'.replies hagree h
  rw [State.nextOp_frame s] at hreplies
  refine ⟨t.restock stack'' replies'', ?_, rfl, hagree', fun hr hstale => hreplies hr fun asked k hop hk => ?_⟩
  · rw [show s' = s.restock s'.stack s'.replies from hs, step, State.nextOp_restock]
    exact hperform
  · obtain ⟨rest, hops⟩ := State.hostOps_of_nextOp_read hop
    exact not_le.mp fun hle => hstale ⟨asked, rest, k, hops, hk, hle⟩

/-! ### VF (R21, R153) -/

/-- VF written last with a flag is 0 or 1. -/
theorem State.vf_writeV_flagByte (s : State) (b : Bool) :
    (s.writeV regF (flagByte b)).readV 15 = 0 ∨ (s.writeV regF (flagByte b)).readV 15 = 1 := by
  rw [State.readV_writeV, if_pos rfl]
  cases b <;> decide

theorem readV_eq_of_not_mem_regWrites {i : Instr} (h : exec i s = next t) {k : RegIdx} (hk : k ∉ regWrites i) :
    t.readV k = s.readV k := by
  obtain ⟨hv, -⟩ := eachStateElementHasItsWriters i s t h
  exact by_contra fun hne => hk (hv k hne)

/-- Settles O24: the six write a flag into VF last, and the others write only the registers of R22. -/
theorem vfIsAFlagOrANamedDestination : Obligations.VfIsAFlagOrANamedDestination := by
  intro i s t h hs ht
  have unwritten := fun hk => readV_eq_of_not_mem_regWrites h (k := 15) hk
  cases i
  case addVxVy | subVxVy | shrVxVy | subnVxVy | shlVxVy =>
    cases h
    exact State.vf_writeV_flagByte ..
  case drw x y n =>
    obtain ⟨fb', collision, rfl⟩ | ⟨code, info, -, rfl⟩ := exec_drw_cases h
    · exact State.vf_writeV_flagByte _ collision
    · cases ht
  case ldVxNn x _ | addVxNn x _ | ldVxVy x _ | orVxVy x _ | andVxVy x _ | xorVxVy x _ | rnd x _ | ldVxDt x | ldVxK x =>
    exact fun hx => unwritten (by simpa [regWrites] using hx.symm)
  case ldVxMem x =>
    exact fun hx => unwritten (by simpa [regWrites] using lt_of_le_of_ne (Fin.le_last x) hx)
  all_goals exact unwritten (by simp [regWrites])

/-! ### General registers read and written (R22) -/

/-- `t` and `t'` differ in general registers alone, and each register either is one of `ws`, with one value in both, or
keeps the value it has in `s` and in `s'`. -/
def WrittenAlike (ws : List RegIdx) (s s' t t' : State) : Prop :=
  t' = { t with v := t'.v } ∧
    ∀ k, (k ∈ ws ∧ t.readV k = t'.readV k) ∨ (t.readV k = s.readV k ∧ t'.readV k = s'.readV k)

namespace WrittenAlike

variable {ws : List RegIdx}

theorem of_unwritten (ht : t' = { t with v := t'.v }) (h : t.v = s.v) (h' : t'.v = s'.v) : WrittenAlike ws s s' t t' :=
  ⟨ht, fun k => .inr ⟨s.readV_congr h k, s'.readV_congr h' k⟩⟩

theorem of_writeV {x : RegIdx} {b : Byte} (ht : t' = { t with v := t'.v }) (h : t.v = (s.writeV x b).v)
    (h' : t'.v = (s'.writeV x b).v) (hx : x ∈ ws) : WrittenAlike ws s s' t t' := by
  refine ⟨ht, fun k => ?_⟩
  rw [(s.writeV x b).readV_congr h, (s'.writeV x b).readV_congr h', State.readV_writeV, State.readV_writeV]
  by_cases hk : k = x
  · subst hk; simp [hx]
  · simp [hk]

theorem of_writeResultThenFlag {dest : RegIdx} {result flag : Byte} (ht : t' = { t with v := t'.v })
    (h : t.v = (s.writeResultThenFlag dest result flag).v) (h' : t'.v = (s'.writeResultThenFlag dest result flag).v)
    (hws : ws = [dest, 15]) : WrittenAlike ws s s' t t' := by
  refine ⟨ht, fun k => ?_⟩
  rw [State.readV_congr _ h, State.readV_congr _ h', State.readV_writeResultThenFlag, State.readV_writeResultThenFlag]
  by_cases hf : k = 15
  · simp [hf, hws]
  · by_cases hk : k = dest <;> simp [hf, hk, hws]

theorem of_loadRegistersUpTo {x : RegIdx} {a : Nat} (hs : s' = { s with v := s'.v }) :
    WrittenAlike (regWrites (.ldVxMem x)) s s' (s.loadRegistersUpTo x a).advance
      (s'.loadRegistersUpTo x a).advance := by
  have hbyte (a : Nat) : s'.readByte a = s.readByte a :=
    State.readByte_congr s (by rw [hs]) (by rw [hs]) a
  constructor
  · rw [hs]; simp only [State.loadRegistersUpTo, State.advance]
  · intro k
    simp only [State.readV_advance, State.readV_loadRegistersUpTo, hbyte]
    by_cases hk : k ≤ x <;> simp [hk, regWrites]

end WrittenAlike

/-- Settles O23, instruction by instruction: with the registers it reads alike, an instruction decides alike and writes
alike. -/
theorem registerUseIsThatOfTheTable : Obligations.RegisterUseIsThatOfTheTable := by
  intro i s s' t t' hs hreads h h'
  obtain ⟨v', rfl⟩ : ∃ v', s' = { s with v := v' } := ⟨_, hs⟩
  clear hs
  show WrittenAlike ..
  cases i
  case cls | jp | ldINnn => cases h; cases h'; exact .of_unwritten rfl rfl rfl
  case ret =>
    by_cases hsp : s.sp.val = 0
    · rw [execRet_of_zero s hsp] at h
      rw [execRet_of_zero { s with v := v' } hsp] at h'
      cases h; cases h'; exact .of_unwritten rfl rfl rfl
    · rw [execRet_of_ne_zero s hsp] at h
      rw [execRet_of_ne_zero { s with v := v' } hsp] at h'
      cases h; cases h'; exact .of_unwritten rfl rfl rfl
  case call nnn =>
    by_cases hsp : s.sp.val < 16
    · rw [execCall_of_lt s nnn hsp] at h
      rw [execCall_of_lt { s with v := v' } nnn hsp] at h'
      cases h; cases h'; exact .of_unwritten rfl rfl rfl
    · rw [execCall_of_not_lt s nnn hsp] at h
      rw [execCall_of_not_lt { s with v := v' } nnn hsp] at h'
      cases h; cases h'; exact .of_unwritten rfl rfl rfl
  case seVxNn x _ | sneVxNn x _ | jpV0 _ | ldDtVx x | ldStVx x | addIVx x | ldFVx x =>
    have hx := hreads _ (.head _)
    simp only [exec, execSeVxNn, execSneVxNn, execJpV0, execLdDtVx, execLdStVx, execAddIVx, execLdFVx, hx] at h
    cases h; cases h'; exact .of_unwritten rfl rfl rfl
  case seVxVy x y | sneVxVy x y =>
    have hx := hreads x (.head _)
    have hy := hreads y (.tail _ (.head _))
    simp only [exec, execSeVxVy, execSneVxVy, hx, hy] at h
    cases h; cases h'; exact .of_unwritten rfl rfl rfl
  case ldVxNn | rnd | ldVxDt => cases h; cases h'; exact .of_writeV rfl rfl rfl (.head _)
  case addVxNn | ldVxVy =>
    have hx := hreads _ (.head _)
    simp only [exec, execAddVxNn, execLdVxVy, hx] at h
    cases h; cases h'; exact .of_writeV rfl rfl rfl (.head _)
  case orVxVy x y | andVxVy x y | xorVxVy x y =>
    have hx := hreads x (.head _)
    have hy := hreads y (.tail _ (.head _))
    simp only [exec, execOrVxVy, execAndVxVy, execXorVxVy, hx, hy] at h
    cases h; cases h'; exact .of_writeV rfl rfl rfl (.head _)
  case addVxVy x y | subVxVy x y | subnVxVy x y =>
    have hx := hreads x (.head _)
    have hy := hreads y (.tail _ (.head _))
    simp only [exec, execAddVxVy, execSubVxVy, execSubnVxVy, hx, hy] at h
    cases h; cases h'; exact .of_writeResultThenFlag rfl rfl rfl rfl
  case shrVxVy x y | shlVxVy x y =>
    have hx := hreads x (.head _)
    simp only [exec, execShrVxVy, execShlVxVy, hx] at h
    cases h; cases h'; exact .of_writeResultThenFlag rfl rfl rfl rfl
  case skp x | sknp x | ldBVx x =>
    have hx := hreads x (.head _)
    simp only [exec, execSkp, execSknp, execLdBVx, hx] at h h'
    split at h <;> cases h
    · rw [if_pos ‹_›] at h'; cases h'; exact .of_unwritten rfl rfl rfl
    · rw [if_neg ‹_›] at h'; cases h'; exact .of_unwritten rfl rfl rfl
  case ldMemVx x =>
    have hregs := State.registersUpTo_congr fun k hk => hreads k (by simpa [regReads] using hk)
    simp only [exec, execLdMemVx, hregs] at h h'
    split at h <;> cases h
    · rw [if_pos ‹_›] at h'; cases h'; exact .of_unwritten rfl rfl rfl
    · rw [if_neg ‹_›] at h'; cases h'; exact .of_unwritten rfl rfl rfl
  case ldVxMem x =>
    simp only [exec, execLdVxMem] at h h'
    split at h <;> obtain rfl := Host.Outcome.next.inj h
    · rw [if_pos ‹_›] at h'
      obtain rfl := Host.Outcome.next.inj h'
      exact .of_loadRegistersUpTo rfl
    · rw [if_neg ‹_›] at h'; cases h'; exact .of_unwritten rfl rfl rfl
  case ldVxK x =>
    cases hkeys : s.pressedKeys with
    | nil =>
      have hkeys' : { s with v := v' }.pressedKeys = [] := hkeys
      rw [execLdVxK_of_nil s x hkeys] at h
      rw [execLdVxK_of_nil _ x hkeys'] at h'
      cases h; cases h'; exact .of_unwritten rfl rfl rfl
    | cons first others =>
      have hkeys' : { s with v := v' }.pressedKeys = first :: others := hkeys
      rw [execLdVxK_of_cons s x hkeys, State.recordKey_eq] at h
      rw [execLdVxK_of_cons _ x hkeys', State.recordKey_eq] at h'
      cases h; cases h'; exact .of_writeV rfl rfl rfl (.head _)
  case drw x y n =>
    have hx := hreads x (.head _)
    have hy := hreads y (.tail _ (.head _))
    simp only [exec, execDrw, hx, hy] at h h'
    split at h
    · rw [if_pos ‹_›] at h'
      split at h <;> obtain rfl := Host.Outcome.next.inj h
      · rw [if_pos ‹_›] at h'
        obtain rfl := Host.Outcome.next.inj h'
        exact .of_writeV rfl rfl rfl (.head _)
      · rw [if_neg ‹_›] at h'
        obtain rfl := Host.Outcome.next.inj h'
        exact .of_unwritten rfl rfl rfl
    · rw [if_neg ‹_›] at h'
      cases h; cases h'; exact .of_unwritten rfl rfl rfl

/-! ### The reset state (R37) -/

/-- Glyph `d`'s row `r` is where FONT lays it. -/
theorem unlisted_glyph (font : Font) (d r : Nat) (hd : d < 16) (hr : r < 5) :
    unlisted font (5 * d + r) = font[d][r] := by
  have hdiv : (5 * d + r) / 5 = d := by omega
  have hmod : (5 * d + r) % 5 = r := by omega
  simp only [unlisted, show 5 * d + r < 80 by omega, dite_true, hdiv, hmod]

theorem unlisted_above_font (font : Font) (a : Nat) (ha : 0x050 ≤ a) : unlisted font a = 0 := dif_neg (by omega)

theorem readByte_reset (a : Nat) : State.reset.readByte a = unlisted defaultFont a := rfl

/-- Settles O55. -/
theorem resetStateIsTheSpecs : Obligations.ResetStateIsTheSpecs := by
  unfold Obligations.ResetStateIsTheSpecs
  refine ⟨fun d r hd hr => ?_, fun a ha _ => ?_, ?_, rfl, rfl, rfl, ?_, rfl, rfl, ?_, rfl, ?_, rfl, rfl, rfl, rfl⟩
  · rw [readByte_reset, unlisted_glyph _ d r hd hr]
  · rw [readByte_reset, unlisted_above_font _ a ha]
  · decide
  · decide
  · simp [State.reset]
  · decide

end Machine
end Sys2Proof

/-! # 20_memory.md: a store over the next instruction

What FX33 and FX55 store, byte by byte, and what a CYCLE that stores leaves for the next fetch. -/

namespace Sys2Proof
namespace Machine

open Host.Outcome (next)

variable {s t : State}

/-! ### FX33 and FX55 inside memory (R173, R174) -/

theorem execLdBVx_of_fits (x : RegIdx) (h : s.i.toNat + 2 ≤ 0xFFF) :
    exec (.ldBVx x) s = next (s.storeBytes s.i.toNat (decimalDigits (s.readV x))).advance :=
  if_pos ((rangeFits_iff _ 3).mpr (.inr h))

theorem execLdMemVx_of_fits (x : RegIdx) (h : s.i.toNat + x.val ≤ 0xFFF) :
    exec (.ldMemVx x) s = next (s.storeBytes s.i.toNat (s.registersUpTo x)).advance :=
  if_pos ((rangeFits_iff _ (x.val + 1)).mpr (.inr h))

/-- V0 to VX stored from `base`: register k is at `base + k`. -/
theorem State.readByte_storeBytes_registersUpTo (s : State) (x : RegIdx) (base a : Nat) :
    (s.storeBytes base (s.registersUpTo x)).readByte a =
      if base ≤ a ∧ a ≤ base + x.val then s.v.getD (a - base) 0 else s.readByte a := by
  rw [State.readByte_storeBytes]
  by_cases ha : base ≤ a ∧ a ≤ base + x.val
  · have hstored : base ≤ a ∧ a - base < (s.registersUpTo x).length := by
      rw [State.length_registersUpTo]; omega
    have hreg : a - base < 16 := by omega
    rw [dif_pos hstored, if_pos ha, State.getElem_registersUpTo]
    simp [Vector.getD, hreg]
  · have hkept : ¬ (base ≤ a ∧ a - base < (s.registersUpTo x).length) := by
      rw [State.length_registersUpTo]; omega
    rw [dif_neg hkept, if_neg ha]

/-- The digits of `v` stored from `base`: hundreds, tens and ones, in this order. -/
theorem State.readByte_storeBytes_decimalDigits (s : State) (v : Byte) (base a : Nat) :
    (s.storeBytes base (decimalDigits v)).readByte a =
      if a = base then BitVec.ofNat 8 (v.toNat / 100)
      else if a = base + 1 then BitVec.ofNat 8 (v.toNat / 10 % 10)
      else if a = base + 2 then BitVec.ofNat 8 (v.toNat % 10) else s.readByte a := by
  have hlength : (decimalDigits v).length = 3 := rfl
  rw [State.readByte_storeBytes]
  by_cases ha : base ≤ a ∧ a - base < (decimalDigits v).length
  · obtain ⟨hbase, hlt⟩ := ha
    obtain ⟨k, rfl⟩ := Nat.exists_eq_add_of_le hbase
    obtain rfl | rfl | rfl : k = 0 ∨ k = 1 ∨ k = 2 := by omega
    all_goals simp [decimalDigits]
  · rw [dif_neg ha, if_neg (by omega), if_neg (by omega), if_neg (by omega)]

/-! ### The CYCLE and the fetch after it (R76, R100, R106) -/

/-- A step that is a CYCLE of a fetchable, decodable opcode executes it and ends with the coupled tick. -/
theorem step_of_decode {i : Instr} (hcycles : s.cycles) (hcore : s.core = .fetching) (hcan : s.canFetch = true)
    (hdecode : decodeWord s.opcodeAtPc = .ok i) (hexec : exec i s = next t) : step s = next t.cycleTick := by
  rw [step_of_cycles hcycles]
  simp [cycle, fetchAndExecute, hcore, hcan, State.fetchOpcode_eq_opcodeAtPc, hdecode, hexec, tickAfter]

/-- The opcode at pc depends only on pc, memory and the parameters. -/
theorem State.opcodeAtPc_congr (hpc : t.pc = s.pc) (hmem : t.mem = s.mem) (hparams : t.params = s.params) :
    t.opcodeAtPc = s.opcodeAtPc := by
  simp only [State.opcodeAtPc, hpc, State.readByte_congr s hmem hparams]

theorem State.opcodeAtPc_cycleTick (s : State) : s.cycleTick.opcodeAtPc = s.opcodeAtPc := by
  rw [s.cycleTick_frame]; exact State.opcodeAtPc_congr rfl rfl rfl

theorem State.opcodeAtPc_advance (s : State) (h : s.pc.toNat + 3 ≤ 0xFFF) :
    s.advance.opcodeAtPc =
      BitVec.ofNat 16 (256 * (s.readByte (s.pc.toNat + 2)).toNat + (s.readByte (s.pc.toNat + 3)).toNat) := by
  have hpc : (s.pc + 2).toNat = s.pc.toNat + 2 := by bv_omega
  simp only [State.opcodeAtPc, State.advance_pc, State.readByte_advance, hpc]

/-- A CYCLE that stores bytes and moves on leaves the core Fetching at the next opcode, as memory reads after the
store. -/
theorem step_of_store {i : Instr} {base : Nat} {bytes : List Byte} {byteAt : Nat → Byte} (hcycles : s.cycles)
    (hcore : s.core = .fetching) (hpc : s.pc.toNat + 3 ≤ 0xFFF) (hdecode : decodeWord s.opcodeAtPc = .ok i)
    (hexec : exec i s = next (s.storeBytes base bytes).advance)
    (hbyteAt : ∀ a, (s.storeBytes base bytes).readByte a = byteAt a) :
    ∃ t, step s = next t ∧ t.pc = s.pc + 2 ∧ t.core = .fetching ∧
      t.opcodeAtPc =
        BitVec.ofNat 16 (256 * (byteAt (s.pc.toNat + 2)).toNat + (byteAt (s.pc.toNat + 3)).toNat) := by
  have hcan : s.canFetch = true := State.canFetch_iff.mpr (by omega)
  refine ⟨_, step_of_decode hcycles hcore hcan hdecode hexec, ?_, ?_, ?_⟩
  · rw [State.cycleTick_frame]; rfl
  · rw [State.cycleTick_frame]; exact hcore
  · rw [State.opcodeAtPc_cycleTick, (s.storeBytes base bytes).opcodeAtPc_advance hpc, hbyteAt, hbyteAt, State.storeBytes_pc]

/-- Settles O30: for either store the next fetch reads memory after it, byte by byte. -/
theorem storeOverTheNextInstructionIsFetched : Obligations.StoreOverTheNextInstructionIsFetched := by
  intro x s hcycles hcore hpc
  -- Each `have` fixes the bytes read after the store, which unification with the goal would have to guess.
  constructor
  · intro hdecode hfits
    have hbytes := s.readByte_storeBytes_registersUpTo x s.i.toNat
    have hfetched := step_of_store hcycles hcore hpc hdecode (execLdMemVx_of_fits x hfits) hbytes
    exact hfetched
  · intro hdecode hfits
    have hbytes := s.readByte_storeBytes_decimalDigits (s.readV x) s.i.toNat
    have hfetched := step_of_store hcycles hcore hpc hdecode (execLdBVx_of_fits x hfits) hbytes
    exact hfetched

end Machine
end Sys2Proof

/-! # 30_encoding.md: decoding and encoding are inverse, and the unknown opcodes

Decoding is put in terms of the rows of R85: at most one row matches an opcode, and decoding gives that row's
instruction. Then each half of the round trip is one fact about every row or every instruction: `encode_build` (a row's
instruction takes the fixed bits from the row and the others from the opcode) and `exists_row_of_wellFormed` (a row
builds the instruction from its own opcode). -/

namespace Sys2Proof

/-! ### Decoding by the rows (R85, R103) -/

/-- Two rows differ in a bit that both masks cover. -/
theorem opcodeTable_disjoint :
    opcodeTable.Pairwise fun r r' => r.code &&& r'.mask ≠ r'.code &&& r.mask := by decide

theorem row_unique {r r' : OpcodeRow} {op : Word} (hr : r ∈ opcodeTable) (hr' : r' ∈ opcodeTable)
    (h : op &&& r.mask = r.code) (h' : op &&& r'.mask = r'.code) : r = r' := by
  have : Std.Symm fun r r' : OpcodeRow => r.code &&& r'.mask ≠ r'.code &&& r.mask := ⟨fun _ _ => Ne.symm⟩
  by_contra hne
  apply opcodeTable_disjoint.forall hr hr' hne
  rw [← h, ← h', BitVec.and_assoc, BitVec.and_assoc, BitVec.and_comm r.mask]

/-- Decoding gives the instruction of a row that matches, or Unknown where none does. -/
theorem decodeWord_cases (op : Word) :
    (∃ r ∈ opcodeTable, op &&& r.mask = r.code ∧ decodeWord op = .ok (r.build op)) ∨
    ((∀ r ∈ opcodeTable, op &&& r.mask ≠ r.code) ∧ decodeWord op = .error (.unknownOpcode op)) := by
  unfold decodeWord
  split
  next r hfind =>
    have hmatch : op &&& r.mask = r.code := by simpa [OpcodeRow.accepts] using List.find?_some hfind
    exact .inl ⟨r, List.mem_of_find?_eq_some hfind, hmatch, rfl⟩
  next hfind => exact .inr ⟨by simpa [OpcodeRow.accepts] using hfind, rfl⟩

theorem decodeWord_of_row {r : OpcodeRow} {op : Word} (hr : r ∈ opcodeTable) (h : op &&& r.mask = r.code) :
    decodeWord op = .ok (r.build op) := by
  obtain ⟨r', hr', h', hdecode⟩ | ⟨hnone, -⟩ := decodeWord_cases op
  · rw [hdecode, row_unique hr hr' h h']
  · exact absurd h (hnone r hr)

theorem decodeWord_eq_unknown_iff (op : Word) :
    decodeWord op = .error (.unknownOpcode op) ↔ ∀ r ∈ opcodeTable, op &&& r.mask ≠ r.code := by
  obtain ⟨r, hr, h, hdecode⟩ | ⟨hnone, hdecode⟩ := decodeWord_cases op
  · exact iff_of_false (by simp [hdecode]) fun hnone => hnone r hr h
  · exact iff_of_true hdecode hnone

/-! ### An opcode put together from its own fields (R81, R82) -/

theorem formatA_of_fields (op : Word) : formatA (topNibble op) (fieldNNN op) = op := by
  simp only [formatA, topNibble, fieldNNN]
  rw [BitVec.extractLsb'_append_extractLsb'_eq_extractLsb' (show 12 = 0 + 12 from rfl), extractLsb'_whole]

theorem formatXNN_of_fields (op : Word) : formatXNN (topNibble op) (fieldX op) (fieldNN op) = op := by
  simp only [formatXNN, topNibble, fieldX, fieldNN, regField, BitVec.ofFin_toFin]
  rw [BitVec.extractLsb'_append_extractLsb'_eq_extractLsb' (show 12 = 8 + 4 from rfl),
    BitVec.extractLsb'_append_extractLsb'_eq_extractLsb' (show 8 = 0 + 8 from rfl), extractLsb'_whole]

theorem formatXYN_of_fields (op : Word) :
    formatXYN (topNibble op) (fieldX op) (fieldY op) (fieldN op) = op := by
  simp only [formatXYN, topNibble, fieldX, fieldY, fieldN, regField, BitVec.ofFin_toFin, BitVec.ofNat_toNat,
    BitVec.setWidth_eq]
  rw [BitVec.extractLsb'_append_extractLsb'_eq_extractLsb' (show 12 = 8 + 4 from rfl),
    BitVec.extractLsb'_append_extractLsb'_eq_extractLsb' (show 8 = 4 + 4 from rfl),
    BitVec.extractLsb'_append_extractLsb'_eq_extractLsb' (show 4 = 0 + 4 from rfl), extractLsb'_whole]

/-! ### A format with the fields of an opcode keeps those bits of it (R82) -/

/-- Bits from one word and, under a mask, from another, part by part. -/
theorem append_or_and_append {n m : Nat} (a c e : BitVec n) (b d f : BitVec m) :
    (a ++ b) ||| ((c ++ d) &&& (e ++ f)) = (a ||| (c &&& e)) ++ (b ||| (d &&& f)) := by
  rw [append_and_append]
  ext k hk
  simp only [BitVec.getElem_or, BitVec.getElem_append]
  split <;> simp

theorem formatA_fieldNNN (top : BitVec 4) (op : Word) :
    formatA top (fieldNNN op) = (top ++ 0#12) ||| (op &&& 0x0FFF#16) := by
  conv_rhs => rw [← formatA_of_fields op, formatA, show 0x0FFF#16 = 0#4 ++ BitVec.allOnes 12 from rfl,
    append_or_and_append, BitVec.and_allOnes]
  simp [formatA]

theorem formatXNN_fieldX_fieldNN (top : BitVec 4) (op : Word) :
    formatXNN top (fieldX op) (fieldNN op) = (top ++ 0#4 ++ 0#8) ||| (op &&& 0x0FFF#16) := by
  conv_rhs => rw [← formatXNN_of_fields op, formatXNN, show 0x0FFF#16 = 0#4 ++ 15#4 ++ 255#8 from rfl,
    append_or_and_append, append_or_and_append, nibble_and_ones, byte_and_ones]
  simp [formatXNN]

theorem formatX_fieldX (top : BitVec 4) (fn : Byte) (op : Word) :
    formatX top (fieldX op) fn = (top ++ 0#4 ++ fn) ||| (op &&& 0x0F00#16) := by
  conv_rhs => rw [← formatXNN_of_fields op, formatXNN, show 0x0F00#16 = 0#4 ++ 15#4 ++ 0#8 from rfl,
    append_or_and_append, append_or_and_append, nibble_and_ones]
  simp [formatX]

theorem formatXY_fieldX_fieldY (top fn : BitVec 4) (op : Word) :
    formatXY top (fieldX op) (fieldY op) fn = (top ++ 0#4 ++ 0#4 ++ fn) ||| (op &&& 0x0FF0#16) := by
  conv_rhs => rw [← formatXYN_of_fields op, formatXYN, show 0x0FF0#16 = 0#4 ++ 15#4 ++ 15#4 ++ 0#4 from rfl,
    append_or_and_append, append_or_and_append, append_or_and_append, nibble_and_ones, nibble_and_ones]
  simp [formatXY]

theorem formatXYN_fieldX_fieldY_fieldN (top : BitVec 4) (op : Word) :
    formatXYN top (fieldX op) (fieldY op) (fieldN op) = (top ++ 0#4 ++ 0#4 ++ 0#4) ||| (op &&& 0x0FFF#16) := by
  conv_rhs => rw [← formatXYN_of_fields op, formatXYN, show 0x0FFF#16 = 0#4 ++ 15#4 ++ 15#4 ++ 15#4 from rfl,
    append_or_and_append, append_or_and_append, append_or_and_append, nibble_and_ones, nibble_and_ones,
    nibble_and_ones]
  simp [formatXYN]

/-! ### The instruction a row builds (R83, R85) -/

/-- The encoding has the row's match under the row's mask, and the opcode's own bits elsewhere. -/
theorem encode_build (op : Word) : ∀ r ∈ opcodeTable, encode (r.build op) = r.code ||| (op &&& ~~~r.mask) := by
  simp [opcodeTable, opcodeRowsLow, opcodeRowsMiddle, opcodeRowsHigh, encode, formatA_fieldNNN,
    formatXNN_fieldX_fieldNN, formatX_fieldX, formatXY_fieldX_fieldY, formatXYN_fieldX_fieldY_fieldN]

theorem code_and_mask : ∀ r ∈ opcodeTable, r.code &&& r.mask = r.code := by decide

theorem encode_build_and_mask {r : OpcodeRow} (hr : r ∈ opcodeTable) (op : Word) :
    encode (r.build op) &&& r.mask = r.code := by
  rw [encode_build op r hr, BitVec.and_or_distrib_right, code_and_mask r hr, BitVec.and_assoc, BitVec.not_and_self]
  simp

theorem encode_build_of_match {r : OpcodeRow} {op : Word} (hr : r ∈ opcodeTable) (h : op &&& r.mask = r.code) :
    encode (r.build op) = op := by
  rw [encode_build op r hr, ← h, ← BitVec.and_or_distrib_left, BitVec.or_not_self, BitVec.and_allOnes]

theorem fieldN_le (op : Word) : fieldN op ≤ 15 := Nat.le_of_lt_succ (op.extractLsb' 0 4).isLt

theorem build_wellFormed (op : Word) : ∀ r ∈ opcodeTable, (r.build op).wellFormed = true := by
  simp [opcodeTable, opcodeRowsLow, opcodeRowsMiddle, opcodeRowsHigh, Instr.wellFormed, fieldN_le]

/-- Every well-formed instruction is what a row builds from its opcode: the fields of each format are its operands. -/
theorem exists_row_of_wellFormed {i : Instr} (h : i.wellFormed = true) :
    ∃ r ∈ opcodeTable, r.build (encode i) = i := by
  simp only [opcodeTable, opcodeRowsLow, opcodeRowsMiddle, opcodeRowsHigh, List.cons_append, List.nil_append,
    List.exists_mem_cons_iff]
  cases i with
  | cls | ret => simp
  | jp | call | ldINnn | jpV0 => simp [encode, formatA_fields]
  | seVxNn | sneVxNn | ldVxNn | addVxNn | rnd => simp [encode, formatXNN_fields]
  | seVxVy | ldVxVy | orVxVy | andVxVy | xorVxVy | addVxVy | subVxVy | shrVxVy | subnVxVy | shlVxVy | sneVxVy =>
    simp [encode, fourNibbles_fields]
  | drw x y n =>
    have hn : n % 16 = n := Nat.mod_eq_of_lt (Nat.lt_succ_of_le (of_decide_eq_true h))
    simp [encode, formatXYN_eq_formatXY, fourNibbles_fields, hn]
  | skp | sknp | ldVxDt | ldVxK | ldDtVx | ldStVx | addIVx | ldFVx | ldBVx | ldMemVx | ldVxMem =>
    simp [encode, formatX_fields]

/-! ### The round trip (R80, R85) -/

theorem decodeWord_encode {i : Instr} (h : i.wellFormed = true) : decodeWord (encode i) = .ok i := by
  obtain ⟨r, hr, hbuild⟩ := exists_row_of_wellFormed h
  have hmatch := encode_build_and_mask hr (encode i)
  rw [hbuild] at hmatch
  rw [decodeWord_of_row hr hmatch, hbuild]

/-- Decoding any bytes that begin with an opcode's two. -/
theorem decodeBytes_bytesOfOpcode {op : Word} {i : Instr} (rest : List Byte) (h : decodeWord op = .ok i) :
    decodeBytes (bytesOfOpcode op ++ rest) = .ok (i, rest) := by
  simp [bytesOfOpcode, decodeBytes, opcodeOfBytes_bytes, h]

/-- Settles O1: the row that builds the instruction from its opcode is the one that matches the opcode. -/
theorem decodeOfEncodeIsTheInstruction : Obligations.DecodeOfEncodeIsTheInstruction := fun _ rest h =>
  ⟨decodeWord_encode h, decodeBytes_bytesOfOpcode rest (decodeWord_encode h)⟩

/-- Settles O2: a row that matches fixes the bits of its mask, and its fields hold the others. -/
theorem encodeOfDecodeIsTheOpcode : Obligations.EncodeOfDecodeIsTheOpcode := by
  intro op i hi
  obtain ⟨r, hr, hmatch, hdecode⟩ | ⟨-, hdecode⟩ := decodeWord_cases op
  · obtain rfl : r.build op = i := Except.ok.inj (hdecode.symm.trans hi)
    exact ⟨encode_build_of_match hr hmatch, build_wellFormed op r hr⟩
  · rw [hdecode] at hi
    cases hi

/-! ### A row's match as a condition on the opcode's number (R84) -/

theorem topNibble_toNat (op : Word) : (topNibble op).toNat = op.toNat / 0x1000 := by
  simp only [topNibble, BitVec.extractLsb'_toNat, Nat.shiftRight_eq_div_pow]
  omega

theorem and_F000_toNat (op : Word) : (op &&& 0xF000#16).toNat = 0x1000 * (op.toNat / 0x1000) := by
  have h : op &&& 0xF000#16 = formatA (topNibble op) 0#12 := by
    conv_lhs => rw [← formatA_of_fields op]
    exact formatA_and ..
  rw [h, formatA_eq_ofNat, topNibble_toNat, BitVec.toNat_ofNat, BitVec.toNat_ofNat]
  omega

theorem and_F00F_toNat (op : Word) :
    (op &&& 0xF00F#16).toNat = 0x1000 * (op.toNat / 0x1000) + op.toNat % 0x10 := by
  have h : op &&& 0xF00F#16 = formatXYN (topNibble op) 0 0 (fieldN op) := by
    conv_lhs => rw [← formatXYN_of_fields op]
    exact formatXY_and ..
  have hn : fieldN op = op.toNat % 0x10 := by simp [fieldN]
  rw [h, formatXYN_eq_ofNat _ _ _ _ (fieldN_le op), topNibble_toNat, hn, BitVec.toNat_ofNat, Fin.val_zero]
  omega

theorem and_F0FF_toNat (op : Word) :
    (op &&& 0xF0FF#16).toNat = 0x1000 * (op.toNat / 0x1000) + op.toNat % 0x100 := by
  have h : op &&& 0xF0FF#16 = formatX (topNibble op) 0 (fieldNN op) := by
    conv_lhs => rw [← formatXNN_of_fields op]
    exact formatX_and ..
  have hnn : (fieldNN op).toNat = op.toNat % 0x100 := by simp [fieldNN]
  rw [h, formatX_eq_ofNat, topNibble_toNat, hnn, BitVec.toNat_ofNat, Fin.val_zero]
  omega

theorem and_F000_eq_iff (op c : Word) (hc : c.toNat % 0x1000 = 0) :
    op &&& 0xF000#16 = c ↔ op.toNat / 0x1000 = c.toNat / 0x1000 := by
  rw [← BitVec.toNat_inj, and_F000_toNat]
  omega

theorem and_F00F_eq_iff (op c : Word) (hc : c.toNat / 0x10 % 0x100 = 0) :
    op &&& 0xF00F#16 = c ↔ op.toNat / 0x1000 = c.toNat / 0x1000 ∧ op.toNat % 0x10 = c.toNat % 0x10 := by
  rw [← BitVec.toNat_inj, and_F00F_toNat]
  omega

theorem and_F0FF_eq_iff (op c : Word) (hc : c.toNat / 0x100 % 0x10 = 0) :
    op &&& 0xF0FF#16 = c ↔ op.toNat / 0x1000 = c.toNat / 0x1000 ∧ op.toNat % 0x100 = c.toNat % 0x100 := by
  rw [← BitVec.toNat_inj, and_F0FF_toNat]
  omega

/-- Settles O4: with each row's match as a condition on the top nibble and the secondary field, the list of R86 is what
the rows leave, top nibble by top nibble. -/
theorem unknownOpcodesAreTheListedOnes : Obligations.UnknownOpcodesAreTheListedOnes := by
  intro op top low byte
  have hones : op &&& 0xFFFF#16 = op := BitVec.and_allOnes
  have hcls : op = 0x00E0#16 ↔ op.toNat = 0x00E0 := BitVec.toNat_inj.symm
  have hret : op = 0x00EE#16 ↔ op.toNat = 0x00EE := BitVec.toNat_inj.symm
  have htop : op.toNat / 0x1000 = top := rfl
  have htop_lt : top < 16 := by omega
  rw [decodeWord_eq_unknown_iff]
  simp only [opcodeTable, opcodeRowsLow, opcodeRowsMiddle, opcodeRowsHigh, List.cons_append, List.nil_append,
    List.forall_mem_cons, ne_eq, BitVec.ofNat_eq_ofNat, hones, hcls, hret, and_F000_eq_iff, and_F00F_eq_iff,
    and_F0FF_eq_iff, BitVec.reduceToNat, Nat.reduceDiv, Nat.reduceMod, htop]
  clear_value top
  interval_cases top <;> simp <;> omega

/-- Settles O5. -/
theorem opcodesOfTheTestVectorsDecode : Obligations.OpcodesOfTheTestVectorsDecode :=
  ⟨rfl, rfl, rfl, rfl, rfl, rfl, rfl, rfl, rfl, rfl, rfl⟩

end Sys2Proof

/-! # 40_cycle.md: the CYCLE

The uniqueness of the row that decodes first. Then what a CYCLE does in each core state, one equation per case, with the
coupled tick spelled out; what no instruction decides by the coupling mode; and pc after each class of instruction. -/

namespace Sys2Proof

/-! ### The row of an opcode (R103) -/

/-- Where no two elements at different places are both counted, at most one is. -/
theorem countP_le_one_of_pairwise {α : Type} {p : α → Bool} {l : List α}
    (h : l.Pairwise fun a b => p a = true → p b = false) : l.countP p ≤ 1 := by
  induction h with
  | nil => simp
  | @cons a l hhead _ ih =>
    cases ha : p a with
    | false => simpa [ha] using ih
    | true =>
      have hnone : l.countP p = 0 := by simpa [List.countP_eq_zero] using fun b hb => hhead b hb ha
      simp [ha, hnone]

theorem opcodeTable_countP_le_one (op : Word) : opcodeTable.countP (fun r => op &&& r.mask == r.code) ≤ 1 := by
  refine countP_le_one_of_pairwise (opcodeTable_disjoint.imp_of_mem fun {r r'} hmem hmem' hne hr => ?_)
  refine beq_false_of_ne fun hr' => hne ?_
  rw [row_unique hmem hmem' (eq_of_beq hr) hr']

/-- Settles O3, by `row_unique`. -/
theorem decodeGivesTheUniqueMatchingRow : Obligations.DecodeGivesTheUniqueMatchingRow := fun op =>
  ⟨opcodeTable_countP_le_one op, fun _ hr h => decodeWord_of_row hr h, (decodeWord_eq_unknown_iff op).mpr⟩

end Sys2Proof

namespace Sys2Proof
namespace Machine

open Host.Outcome (next)

variable {s t : State}

/-! ### What a tick keeps (R243) -/

@[simp] theorem State.tick_core (s : State) : s.tick.core = s.core := by rw [s.tick_frame]
@[simp] theorem State.tick_params (s : State) : s.tick.params = s.params := by rw [s.tick_frame]
@[simp] theorem State.tick_readV (s : State) (k : RegIdx) : s.tick.readV k = s.readV k := by rw [s.tick_frame]; rfl
@[simp] theorem State.cycleTick_latch (s : State) : s.cycleTick.latch = s.latch := by rw [s.cycleTick_frame]

theorem State.cycleTick_of_decoupled (h : s.params.coupling = .decoupled) : s.cycleTick = s := by
  simp [State.cycleTick, h]
theorem State.cycleTick_of_coupled (h : s.params.coupling = .coupled) : s.cycleTick = s.tick := by
  simp [State.cycleTick, h]

@[simp] theorem State.pollKey_params (s : State) (x : RegIdx) : (s.pollKey x).params = s.params := by
  rw [s.pollKey_frame]

/-! ### A CYCLE in each core state (R100, R102, R105, R107, R108) -/

theorem cycle_of_faulted (h : s.core = .faulted) : cycle s = next s := by
  simp [cycle, h]

theorem cycle_of_awaitingKey {x : RegIdx} (h : s.core = .awaitingKey x) : cycle s = next (s.pollKey x).cycleTick := by
  simp [cycle, h]

theorem cycle_of_fetch_outside (hcore : s.core = .fetching) (hcan : s.canFetch = false) :
    cycle s = next (s.raiseFault .addrFetch 0x0000 s.pc) := by
  simp [cycle, fetchAndExecute, hcore, hcan]

theorem cycle_of_unknown {e : DecodeError} (hcore : s.core = .fetching) (hcan : s.canFetch = true)
    (hdecode : decodeWord s.fetchOpcode = .error e) : cycle s = next (s.reportUnknown s.fetchOpcode).cycleTick := by
  simp [cycle, fetchAndExecute, hcore, hcan, hdecode]

theorem cycle_of_decode {i : Instr} (hcore : s.core = .fetching) (hcan : s.canFetch = true)
    (hdecode : decodeWord s.fetchOpcode = .ok i) (hexec : exec i s = next t) : cycle s = next t.cycleTick := by
  simp [cycle, fetchAndExecute, hcore, hcan, hdecode, hexec, tickAfter]

/-- A CYCLE always answers a next state (R109). -/
theorem cycle_next (s : State) : ∃ t, cycle s = next t := by
  cases hcore : s.core with
  | faulted => exact ⟨_, cycle_of_faulted hcore⟩
  | awaitingKey x => exact ⟨_, cycle_of_awaitingKey hcore⟩
  | fetching =>
    cases hcan : s.canFetch with
    | false => exact ⟨_, cycle_of_fetch_outside hcore hcan⟩
    | true =>
      cases hdecode : decodeWord s.fetchOpcode with
      | error e => exact ⟨_, cycle_of_unknown hcore hcan hdecode⟩
      | ok i =>
        obtain ⟨t, hexec⟩ := exec_next i s
        exact ⟨_, cycle_of_decode hcore hcan hdecode hexec⟩

/-- Settles O13. -/
theorem cycleIsAlwaysPossible : Obligations.CycleIsAlwaysPossible := fun s hcycles => by
  rw [step_of_cycles hcycles]
  exact cycle_next s

/-- Settles O6: the instruction leaves the coupling mode, by which `cycleTick` decides. -/
theorem stepRunsTheDecodedInstruction : Obligations.StepRunsTheDecodedInstruction := by
  intro s i hcycles hcore hpc hdecode t hexec
  obtain ⟨-, hparams, -⟩ := exec_host_frame hexec
  rw [step_of_decode hcycles hcore (State.canFetch_iff.mpr hpc) hdecode hexec, State.cycleTick_eq, hparams]

/-- Settles O8. -/
theorem unknownOpcodeIsAReportedNoOp : Obligations.UnknownOpcodeIsAReportedNoOp := by
  intro s hcycles hcore hpc hdecode u
  rw [← s.fetchOpcode_eq_opcodeAtPc] at hdecode
  have hu : s.reportUnknown s.fetchOpcode = u := by rw [s.fetchOpcode_eq_opcodeAtPc]; rfl
  rw [step_of_cycles hcycles, cycle_of_unknown hcore (State.canFetch_iff.mpr hpc) hdecode, hu, State.cycleTick_eq]

/-! ### The fetch (R102) -/

/-- No instruction latches ADDR_FETCH: that fault is the fetch's own. -/
theorem exec_latch_ne_addrFetch {i : Instr} (hexec : exec i s = next t) (h : s.latch.code ≠ .addrFetch) :
    t.latch.code ≠ .addrFetch := by
  rcases exec_cases i hexec with ⟨-, ht⟩ | ⟨code, info, ht, hcode⟩
  · rw [ht]; exact h
  · have hne : code ≠ .addrFetch := by rintro rfl; simp at hcode
    rw [ht]; exact hne

theorem cycle_latch_ne_addrFetch (hc : cycle s = next t) (hcan : s.canFetch = true)
    (h : s.latch.code ≠ .addrFetch) : t.latch.code ≠ .addrFetch := by
  rcases cycle_cases hc with ⟨-, rfl⟩ | ⟨x, -, rfl⟩ | ⟨-, houtside, -⟩ | ⟨-, -, i, u, -, hexec, rfl⟩ | ⟨-, -, -, rfl⟩
  · exact h
  · rw [State.cycleTick_latch, State.pollKey_frame]; exact h
  · rw [hcan] at houtside; cases houtside
  · rw [State.cycleTick_latch]; exact exec_latch_ne_addrFetch hexec h
  · rw [State.cycleTick_latch]; exact h

/-- Settles O7. -/
theorem fetchOutsideMemoryFaults : Obligations.FetchOutsideMemoryFaults := by
  intro s hcycles hcore
  rw [step_of_cycles hcycles]
  refine ⟨s.fetchOpcode_eq_opcodeAtPc, fun hpc => ?_, fun hpc hlatch t hc => ?_⟩
  · have houtside : s.canFetch = false := by
      rw [Bool.eq_false_iff, ne_eq, State.canFetch_iff]
      omega
    exact ⟨_, cycle_of_fetch_outside hcore houtside, rfl⟩
  · exact cycle_latch_ne_addrFetch hc (State.canFetch_iff.mpr hpc) hlatch

/-! ### A Faulted core (R107) -/

/-- Settles O10: a CYCLE and a Tick() leave a Faulted core as it is, and of the other operations only RESET writes the core
state. -/
theorem faultedCoreDoesNothing : Obligations.FaultedCoreDoesNothing := by
  intro s hcore hloaded
  have hcycle (rest) : cycle { s with hostOps := rest } = next { s with hostOps := rest } := cycle_of_faulted hcore
  refine ⟨fun hops => ?_, fun rest hops => ?_, fun t hstep => ?_⟩
  · rw [step_of_cycles ⟨hops, hloaded⟩, cycle_of_faulted hcore]
  · rcases hops with hops | hops
    · rw [step_of_op hops]
      exact (if_neg (Bool.eq_false_iff.mp hloaded)).trans (hcycle rest)
    · rw [step_of_op hops]
      exact (if_neg (Bool.eq_false_iff.mp hloaded)).trans (congrArg next (State.tick_of_faulted _ hcore))
  · rcases step_cases hstep with ⟨-, -, hc⟩ | ⟨rest, -, -, hc⟩ | ⟨rest, -, -, rfl⟩ | ⟨_, rest, -, rfl⟩ |
      ⟨_, rest, -, rfl⟩ | ⟨rest, -, rfl⟩ | ⟨image, rest, hops, -⟩
    · rw [cycle_of_faulted hcore] at hc
      cases hc
      exact .inl hcore
    · rw [hcycle] at hc
      cases hc
      exact .inl hcore
    · rw [State.tick_core]; exact .inl hcore
    · exact .inl hcore
    · exact .inl hcore
    · exact .inl hcore
    · exact .inr ⟨image, rest, hops⟩

/-! ### The coupling mode (R106) -/

/-- `s` in the coupling mode `c`. -/
def State.withCoupling (s : State) (c : TimerCoupling) : State := { s with params := { s.params with coupling := c } }

theorem State.withCoupling_self (s : State) : s.withCoupling s.params.coupling = s := rfl

theorem State.withCoupling_tick (s : State) (c : TimerCoupling) : (s.withCoupling c).tick = s.tick.withCoupling c := by
  by_cases h : s.core = .faulted
  · rw [s.tick_of_faulted h, (s.withCoupling c).tick_of_faulted h]
  · unfold State.tick
    rw [if_neg h]
    exact if_neg h

theorem State.withCoupling_pollKey (s : State) (c : TimerCoupling) (x : RegIdx) :
    (s.withCoupling c).pollKey x = (s.pollKey x).withCoupling c := by
  cases hkeys : s.pressedKeys with
  | nil => rw [s.pollKey_of_nil x hkeys, (s.withCoupling c).pollKey_of_nil x hkeys]
  | cons first others =>
    rw [s.pollKey_of_cons x hkeys, (s.withCoupling c).pollKey_of_cons x hkeys, State.recordKey_eq, State.recordKey_eq]
    rfl

/-- An instruction does the same in either mode. -/
theorem exec_withCoupling {i : Instr} (h : exec i s = next t) (c : TimerCoupling) :
    exec i (s.withCoupling c) = next (t.withCoupling c) := by
  cases i
  case ret =>
    by_cases hsp : s.sp.val = 0
    · rw [execRet_of_zero s hsp] at h; cases h; exact execRet_of_zero _ hsp
    · rw [execRet_of_ne_zero s hsp] at h; cases h; exact execRet_of_ne_zero _ hsp
  case call nnn =>
    by_cases hsp : s.sp.val < 16
    · rw [execCall_of_lt s nnn hsp] at h; cases h; exact execCall_of_lt (s.withCoupling c) nnn hsp
    · rw [execCall_of_not_lt s nnn hsp] at h; cases h; exact execCall_of_not_lt _ nnn hsp
  case skp | sknp | ldBVx | ldMemVx =>
    simp only [exec, execSkp, execSknp, execLdBVx, execLdMemVx] at h
    split at h <;> cases h
    · exact if_pos ‹_›
    · exact if_neg ‹_›
  case ldVxMem x =>
    simp only [exec, execLdVxMem] at h
    split at h <;> obtain rfl := Host.Outcome.next.inj h
    · refine (if_pos ‹_›).trans ?_
      simp only [State.loadRegistersUpTo, State.advance]
      rfl
    · exact if_neg ‹_›
  case ldVxK x =>
    cases hkeys : s.pressedKeys with
    | nil => rw [execLdVxK_of_nil s x hkeys] at h; cases h; exact execLdVxK_of_nil _ x hkeys
    | cons first others =>
      rw [execLdVxK_of_cons s x hkeys, State.recordKey_eq] at h
      cases h
      rw [execLdVxK_of_cons (s.withCoupling c) x hkeys, State.recordKey_eq]
      rfl
  case drw x y n =>
    simp only [exec, execDrw] at h
    split at h
    · split at h <;> obtain rfl := Host.Outcome.next.inj h
      · exact (if_pos ‹_›).trans (if_pos ‹_›)
      · exact (if_pos ‹_›).trans (if_neg ‹_›)
    · obtain rfl := Host.Outcome.next.inj h
      exact if_neg ‹_›
  all_goals
    cases h
    rfl

theorem State.cycleTick_withCoupling_coupled (s : State) :
    (s.withCoupling .coupled).cycleTick = s.tick.withCoupling .coupled :=
  (State.cycleTick_of_coupled rfl).trans (s.withCoupling_tick .coupled)

/-- What a decoupled CYCLE answers, a coupled one answers with one Tick() more. -/
theorem cycle_withCoupling_coupled (hmode : s.params.coupling = .decoupled) (hc : cycle s = next t) :
    cycle (s.withCoupling .coupled) = next (t.tick.withCoupling .coupled) := by
  rcases cycle_cases hc with ⟨hcore, rfl⟩ | ⟨x, hcore, rfl⟩ | ⟨hcore, hcan, rfl⟩ | ⟨hcore, hcan, i, u, hi, hexec, rfl⟩ |
    ⟨hcore, hcan, ⟨e, he⟩, rfl⟩
  · rw [t.tick_of_faulted hcore]
    exact cycle_of_faulted hcore
  · rw [State.cycleTick_of_decoupled (by rw [State.pollKey_params, hmode]), ← State.cycleTick_withCoupling_coupled,
      ← State.withCoupling_pollKey]
    exact cycle_of_awaitingKey hcore
  · rw [State.tick_of_faulted _ (State.raiseFault_core ..)]
    exact cycle_of_fetch_outside hcore hcan
  · obtain ⟨-, hparams, -⟩ := exec_host_frame hexec
    rw [State.cycleTick_of_decoupled (by rw [hparams, hmode]), ← State.cycleTick_withCoupling_coupled]
    exact cycle_of_decode hcore hcan hi (exec_withCoupling hexec .coupled)
  · rw [State.cycleTick_of_decoupled (s := s.reportUnknown _) hmode, ← State.cycleTick_withCoupling_coupled]
    exact cycle_of_unknown hcore hcan he

/-- Settles O9. -/
theorem coupledCycleIsTheDecoupledOneThenATick : Obligations.CoupledCycleIsTheDecoupledOneThenATick := by
  intro s u hcycles hmode hstep
  have hcycles' : (s.withCoupling .decoupled).cycles := hcycles
  have hc : cycle (s.withCoupling .decoupled) = next u := (step_of_cycles hcycles').symm.trans hstep
  obtain ⟨-, hparams, -⟩ := cycle_host_frame hc
  have hself : (s.withCoupling .decoupled).withCoupling .coupled = s := hmode ▸ s.withCoupling_self
  have hu : u.tick.withCoupling .coupled = { u.tick with params := s.params } := by
    rw [State.withCoupling, State.tick_params, hparams]
    exact congrArg (fun p => { u.tick with params := p }) (congrArg State.params hself)
  rw [step_of_cycles hcycles, ← hu, ← cycle_withCoupling_coupled rfl hc, hself]

/-! ### pc after an instruction (R104) -/

/-- A fault leaves pc. -/
theorem exec_pc_of_faulted {i : Instr} (h : exec i s = next t) (hs : s.core = .fetching) (ht : t.core = .faulted) :
    t.pc = s.pc := by
  obtain ⟨-, -, -, -, -, -, -, hpc, -⟩ := (exec_effect i h).writers
  by_contra hne
  obtain ⟨hcore, -⟩ := hpc hne
  rw [hs, ht] at hcore
  cases hcore

/-- Settles O12, class by class. -/
theorem completedInstructionsSetPcByTheirClass : Obligations.CompletedInstructionsSetPcByTheirClass := by
  intro i s t h hs
  refine ⟨exec_pc_of_faulted h hs, fun ht => ?_⟩
  cases i
  case jp nnn => cases h; exact toNat_addressOperand nnn
  case jpV0 nnn => cases h; exact toNat_offsetAddress nnn _
  case call nnn =>
    by_cases hsp : s.sp.val < 16
    · rw [execCall_of_lt s nnn hsp] at h; cases h; exact toNat_addressOperand nnn
    · rw [execCall_of_not_lt s nnn hsp] at h; cases h; exact absurd rfl ht
  case ret =>
    by_cases hsp : s.sp.val = 0
    · rw [execRet_of_zero s hsp] at h; cases h; exact absurd rfl ht
    · rw [execRet_of_ne_zero s hsp] at h; cases h; rfl
  case seVxNn | sneVxNn | seVxVy | sneVxVy => cases h; simp
  case skp | sknp =>
    simp only [exec, execSkp, execSknp] at h
    split at h <;> cases h
    · simp [State.keyPressed]
    · exact absurd rfl ht
  case ldVxK x =>
    cases hkeys : s.pressedKeys with
    | nil =>
      rw [execLdVxK_of_nil s x hkeys] at h
      cases h
      rw [State.pressedKeys_eq_nil] at hkeys
      simp [hkeys]
    | cons first others =>
      rw [execLdVxK_of_cons s x hkeys] at h
      cases h
      have hfirst : s.key[first.val] = true := (s.mem_pressedKeys first).mp (by simp [hkeys])
      rw [State.recordKey_eq]
      exact (if_pos ⟨first, hfirst⟩).symm
  case ldBVx | ldMemVx | ldVxMem =>
    simp only [exec, execLdBVx, execLdMemVx, execLdVxMem] at h
    split at h <;> obtain rfl := Host.Outcome.next.inj h
    · rfl
    · exact absurd rfl ht
  case drw x y n =>
    obtain ⟨fb', collision, rfl⟩ | ⟨code, info, -, rfl⟩ := exec_drw_cases h
    · rfl
    · exact absurd rfl ht
  all_goals cases h; rfl

/-! ### The poll of a waiting core (R108, R214) -/

/-- A recorded key is in VX, and the other registers are as they were. -/
theorem State.toNat_readV_recordKey (s : State) (x first j : RegIdx) (others : List RegIdx) :
    ((s.recordKey x first others).readV j).toNat =
      if j = x then (s.selectKey first others).val else (s.readV j).toNat := by
  have hkey : (BitVec.ofNat 8 (s.selectKey first others).val).toNat = (s.selectKey first others).val := by
    rw [BitVec.toNat_ofNat]
    omega
  have hv : (s.recordKey x first others).v = (s.writeV x (BitVec.ofNat 8 (s.selectKey first others).val)).v := by
    rw [State.recordKey_eq]
  rw [State.readV_congr _ hv, State.readV_writeV, apply_ite BitVec.toNat, hkey]

/-- Settles O40: the state `u` is the poll's. -/
theorem pollOfAWaitingCore : Obligations.PollOfAWaitingCore := by
  intro x s hcycles hcore
  refine ⟨s.pollKey x, ?_, fun hnone => ?_, fun ⟨k, hk⟩ => ?_⟩
  · rw [step_of_cycles hcycles, cycle_of_awaitingKey hcore, State.cycleTick_eq, State.pollKey_params]
  · exact s.pollKey_of_nil x (s.pressedKeys_eq_nil.mpr hnone)
  · cases hkeys : s.pressedKeys with
    | nil => simp [s.pressedKeys_eq_nil.mp hkeys k] at hk
    | cons first others =>
      obtain ⟨hpressed, hlowest⟩ := s.selectKey_spec first others hkeys
      rw [s.pollKey_of_cons x hkeys]
      refine ⟨s.selectKey first others, hpressed, hlowest, fun j => s.toNat_readV_recordKey x first j others, ?_, ?_⟩
      · rw [State.recordKey_eq]
      · rw [State.recordKey_eq]; rfl

/-! ### FX15 and then FX07 in coupled mode (R106, R212, R215) -/

theorem step_of_decode_coupled {i : Instr} (hcycles : s.cycles) (hcore : s.core = .fetching)
    (hmode : s.params.coupling = .coupled) (hpc : s.pc.toNat ≤ 0xFFE) (hdecode : decodeWord s.opcodeAtPc = .ok i)
    (hexec : exec i s = next t) : step s = next t.tick := by
  obtain ⟨-, hparams, -⟩ := exec_host_frame hexec
  rw [step_of_decode hcycles hcore (State.canFetch_iff.mpr hpc) hdecode hexec,
    State.cycleTick_of_coupled (by rw [hparams, hmode])]

/-- A coupled step that runs FX15 leaves DT one below VX, and writes ST, pc and the events besides. -/
theorem step_ldDtVx_coupled {x : RegIdx} (hcycles : s.cycles) (hcore : s.core = .fetching)
    (hmode : s.params.coupling = .coupled) (hpc : s.pc.toNat ≤ 0xFFE)
    (hdecode : decodeWord s.opcodeAtPc = .ok (.ldDtVx x)) :
    ∃ t, step s = next t ∧ t = { s with dt := t.dt, st := t.st, pc := s.pc + 2, events := t.events } ∧
      t.dt.toNat = (s.readV x).toNat - 1 := by
  have hrun : { s with dt := s.readV x }.advance.core ≠ .faulted := by simp [hcore]
  exact ⟨_, step_of_decode_coupled hcycles hcore hmode hpc hdecode rfl, State.tick_frame _, State.toNat_tick_dt _ hrun⟩

/-- A coupled step that runs FX07 reads DT before its own tick. -/
theorem step_ldVxDt_coupled {x : RegIdx} (hcycles : s.cycles) (hcore : s.core = .fetching)
    (hmode : s.params.coupling = .coupled) (hpc : s.pc.toNat ≤ 0xFFE)
    (hdecode : decodeWord s.opcodeAtPc = .ok (.ldVxDt x)) :
    ∃ t, step s = next t ∧ t.readV x = s.dt ∧ t.dt.toNat = s.dt.toNat - 1 := by
  have hrun : (s.writeV x s.dt).advance.core ≠ .faulted := by simp [hcore]
  refine ⟨_, step_of_decode_coupled hcycles hcore hmode hpc hdecode rfl, ?_, State.toNat_tick_dt _ hrun⟩
  rw [State.tick_readV, State.readV_advance, State.readV_writeV, if_pos rfl]

/-- Settles O45: one tick, at the end of the FX15, comes before FX07 reads, and FX07's own after it. -/
theorem coupledDelayReadsOneLess : Obligations.CoupledDelayReadsOneLess := by
  intro x y s hcycles hcore hmode hpc hdecode hdecode'
  obtain ⟨t, hfirst, hframe, hdt⟩ := step_ldDtVx_coupled hcycles hcore hmode (by omega) hdecode
  have hpc' : t.pc = s.pc + 2 := by rw [hframe]
  have hmode' : t.params.coupling = .coupled := by rw [hframe]; exact hmode
  have hop : t.opcodeAtPc = { s with pc := s.pc + 2 }.opcodeAtPc := by
    rw [hframe]; exact State.opcodeAtPc_congr rfl rfl rfl
  obtain ⟨u, hsecond, hread, hdt'⟩ := step_ldVxDt_coupled (s := t) (x := y) (by rw [hframe]; exact hcycles)
    (by rw [hframe]; exact hcore) hmode' (by rw [hpc']; bv_omega) (by rw [hop]; exact hdecode')
  refine ⟨t, u, hfirst, hsecond, ?_, ?_⟩
  · rw [hread, hdt]
  · rw [hdt', hdt]; omega

end Machine
end Sys2Proof

/-! # 41_flow.md: control flow

The row of an instruction first, for the statements that give the opcode's pattern. Then the return stack: a step writes no
entry below SP, unless it leaves SP = 0, so a body whose SP stays above its CALL's keeps the address the CALL pushed. -/

namespace Sys2Proof

/-! ### The pattern of an instruction's opcode (R85) -/

theorem hasPattern_of_rowMatch {i : Instr} (hrow : Laws.RowMatch.Statement i) (hi : i.wellFormed = true) :
    i.hasPattern (rowPattern i).1 (rowPattern i).2 :=
  ⟨hrow, decodeWord_encode hi⟩

theorem encode_call (nnn : BitVec 12) : encode (.call nnn) = BitVec.ofNat 16 (0x2000 + nnn.toNat) :=
  formatA_eq_ofNat 0x2 nnn

end Sys2Proof

namespace Sys2Proof
namespace Machine

open Host.Outcome (next)

variable {s t : State}

/-! ### The return stack below SP (R123, R129) -/

theorem AgreeBelow.refl (n : Nat) (stack : Vector Word 16) : AgreeBelow n stack stack := fun _ _ => rfl

theorem AgreeBelow.mono {m n : Nat} {stack stack' : Vector Word 16} (h : AgreeBelow n stack stack') (hmn : m ≤ n) :
    AgreeBelow m stack stack' := fun k hk => h k (lt_of_lt_of_le hk hmn)

theorem AgreeBelow.trans {n : Nat} {stack stack' stack'' : Vector Word 16} (h : AgreeBelow n stack stack')
    (h' : AgreeBelow n stack' stack'') : AgreeBelow n stack stack'' := fun k hk => (h k hk).trans (h' k hk)

theorem State.pushPc_stack_sp (s : State) (h : s.sp.val < 16) : (s.pushPc h).stack[s.sp.val] = s.pc :=
  Vector.getElem_set_self h

/-- A push writes at SP alone. -/
theorem State.pushPc_stack_of_ne (s : State) (h : s.sp.val < 16) {k : Fin 16} (hk : k.val ≠ s.sp.val) :
    (s.pushPc h).stack[k.val] = s.stack[k.val] := Vector.getElem_set_ne h k.isLt hk.symm

/-- Of the instructions only CALL writes the stack. -/
theorem Effect.agreeBelow {i : Instr} (he : Effect i s t) : AgreeBelow s.sp.val s.stack t.stack := by
  cases he
  case call nnn hsp => exact fun k hk => (s.pushPc_stack_of_ne hsp hk.ne).symm
  all_goals exact .refl _ _

theorem cycle_agreeBelow (h : cycle s = next t) : AgreeBelow s.sp.val s.stack t.stack := by
  rcases cycle_cases h with ⟨-, rfl⟩ | ⟨x, -, rfl⟩ | ⟨-, -, rfl⟩ | ⟨-, -, i, u, -, hexec, rfl⟩ | ⟨-, -, -, rfl⟩
  · exact .refl _ _
  · rw [State.cycleTick_frame, State.pollKey_frame]; exact .refl _ _
  · exact .refl _ _
  · rw [State.cycleTick_frame]; exact (exec_effect i hexec).agreeBelow
  · rw [State.cycleTick_frame]; exact .refl _ _

/-- RESET leaves the stack, or empties it. -/
theorem State.hostReset_agreeBelow (s : State) (image : List Byte) :
    AgreeBelow s.sp.val s.stack (s.hostReset image).stack ∨ (s.hostReset image).sp.val = 0 := by
  cases hfits : imageFits image with
  | false => rw [State.hostReset_of_not_fits hfits]; exact .inl (.refl _ _)
  | true => rw [State.hostReset_of_fits hfits]; exact .inr rfl

theorem step_agreeBelow (h : step s = next t) : AgreeBelow s.sp.val s.stack t.stack ∨ t.sp.val = 0 := by
  rcases step_cases h with ⟨-, -, hc⟩ | ⟨rest, -, -, hc⟩ | ⟨rest, -, -, rfl⟩ | ⟨_, rest, -, rfl⟩ | ⟨_, rest, -, rfl⟩ |
    ⟨rest, -, rfl⟩ | ⟨image, rest, -, rfl⟩
  · exact .inl (cycle_agreeBelow hc)
  · have hagree := cycle_agreeBelow hc
    exact .inl hagree
  · rw [State.tick_frame]; exact .inl (.refl _ _)
  · exact .inl (.refl _ _)
  · exact .inl (.refl _ _)
  · exact .inl (.refl _ _)
  · exact State.hostReset_agreeBelow { s with hostOps := rest } image

/-- Steps through states whose SP stays above `d` keep the entries up to `d`. -/
theorem stepsThrough_agreeBelow {d n : Nat} (hsp : d < s.sp.val)
    (h : stepsThrough (fun q => d < q.sp.val) n s t) : AgreeBelow (d + 1) s.stack t.stack := by
  induction n generalizing s with
  | zero => cases h; exact .refl _ _
  | succ n ih =>
    obtain ⟨u, hstep, hu, hrest⟩ := h
    have hfirst : AgreeBelow s.sp.val s.stack u.stack := (step_agreeBelow hstep).resolve_right (by omega)
    exact (hfirst.mono hsp).trans (ih hu hrest)

/-- Settles O18: the body keeps the entry the CALL pushed, and the RET pops it. -/
theorem callBalancedBodyReturn : Obligations.CallBalancedBodyReturn := by
  intro nnn n s t u r hsp hcall hbody hdepth hret
  rw [execCall_of_lt s nnn hsp] at hcall
  cases hcall
  rw [execRet_of_ne_zero u (by omega)] at hret
  cases hret
  have hkept := stepsThrough_agreeBelow (Nat.lt_succ_self s.sp.val) hbody ⟨s.sp.val, hsp⟩ (Nat.lt_succ_self s.sp.val)
  have htop : u.sp.val - 1 = s.sp.val := by omega
  constructor
  · simp only [State.popReturn_pc, htop]
    rw [← s.pushPc_stack_sp hsp]
    exact congrArg (· + 2) hkept.symm
  · exact Fin.ext htop

/-! ### The instructions one by one (R121 to R128) -/

/-- Settles O14, by the two outcomes of RET. -/
theorem retReturnsPastTheCall : Obligations.RetReturnsPastTheCall := by
  refine ⟨hasPattern_of_rowMatch Laws.RowMatch.ret rfl, fun s => ⟨fun hsp => ?_, fun hsp => ?_⟩⟩
  · exact ⟨_, execRet_of_zero s hsp, State.raiseFault_faultTaken _ _ _ (by decide)⟩
  · exact ⟨_, execRet_of_ne_zero s hsp.ne', rfl, rfl, rfl, fun _ => rfl⟩

/-- Settles O15. -/
theorem jumpsSetPc : Obligations.JumpsSetPc := by
  intro nnn s
  constructor
  · exact ⟨hasPattern_of_rowMatch (Laws.RowMatch.jp nnn) rfl, _, rfl, toNat_addressOperand nnn, rfl, fun _ => rfl⟩
  · exact ⟨hasPattern_of_rowMatch (Laws.RowMatch.jpV0 nnn) rfl, _, rfl, toNat_offsetAddress nnn _, rfl, fun _ => rfl⟩

/-- Settles O16, by the two outcomes of CALL. -/
theorem callPushesItsOwnAddress : Obligations.CallPushesItsOwnAddress := by
  intro nnn s
  refine ⟨hasPattern_of_rowMatch (Laws.RowMatch.call nnn) rfl, fun hsp => ?_, fun hsp => ?_⟩
  · rw [← encode_call]
    exact ⟨_, execCall_of_not_lt s nnn (by omega), State.raiseFault_faultTaken _ _ _ (by decide)⟩
  · refine ⟨_, execCall_of_lt s nnn hsp, rfl, toNat_addressOperand nnn, s.pushPc_stack_sp hsp, fun k hk => ?_, rfl,
      fun _ => rfl⟩
    exact s.pushPc_stack_of_ne hsp hk

/-- An instruction that skips by a condition: where `p` implies the condition and `q` its negation. -/
theorem exec_skip_spec {i : Instr} {condition : Bool} {p q : Prop} (h : exec i s = next (s.skipIf condition))
    (hp : p → condition = true) (hq : q → condition = false) :
    ∃ t, exec i s = next t ∧ (p → t.pc = s.pc + 4) ∧ (q → t.pc = s.pc + 2) ∧ t = { s with pc := t.pc } ∧
      ∀ a, t.readByte a = s.readByte a := by
  refine ⟨_, h, fun hholds => ?_, fun hfails => ?_, rfl, fun _ => rfl⟩
  · rw [State.skipIf_pc, hp hholds, if_pos rfl]
  · rw [State.skipIf_pc, hq hfails]; rfl

/-- Settles O17: the four are skips by the equality or the inequality of two values. -/
theorem registerSkipsAddFourOrTwo : Obligations.RegisterSkipsAddFourOrTwo := by
  intro x y nn s
  refine ⟨⟨hasPattern_of_rowMatch (Laws.RowMatch.seVxNn x nn) rfl, ?_⟩,
    ⟨hasPattern_of_rowMatch (Laws.RowMatch.sneVxNn x nn) rfl, ?_⟩,
    ⟨hasPattern_of_rowMatch (Laws.RowMatch.seVxVy x y) rfl, ?_⟩,
    ⟨hasPattern_of_rowMatch (Laws.RowMatch.sneVxVy x y) rfl, ?_⟩⟩
  · exact exec_skip_spec rfl beq_iff_eq.mpr beq_false_of_ne
  · exact exec_skip_spec rfl bne_iff_ne.mpr bne_eq_false_iff_eq.mpr
  · exact exec_skip_spec rfl beq_iff_eq.mpr beq_false_of_ne
  · exact exec_skip_spec rfl bne_iff_ne.mpr bne_eq_false_iff_eq.mpr

end Machine
end Sys2Proof

/-! # 42_alu.md: register loads, arithmetic, logic, shifts and random

Two shapes cover the arithmetic: one register written, or a result and then VF. Each obligation says which shape its
instructions have; the numbers are those of Laws/Ops. -/

namespace Sys2Proof
namespace Machine

open Host.Outcome (next)

variable {s : State}

theorem sumByte_eq_ofNat_mod (a b : Byte) : sumByte a b = BitVec.ofNat 8 ((a.toNat + b.toNat) % 256) := by
  apply BitVec.eq_of_toNat_eq
  rw [toNat_sumByte, BitVec.toNat_ofNat, Nat.mod_mod]

/-- An instruction that writes one register and no flag (R141 to R146). -/
theorem exec_writeV_spec {i : Instr} {x : RegIdx} {value : Byte} (h : exec i s = next (s.writeV x value).advance) :
    ∃ t, exec i s = next t ∧ (∀ k, t.readV k = if k = x then value else s.readV k) ∧ t.pc = s.pc + 2 ∧
      t = { s with v := t.v, pc := t.pc } ∧ ∀ a, t.readByte a = s.readByte a :=
  ⟨_, h, fun k => s.readV_writeV x k value, rfl, rfl, fun _ => rfl⟩

/-- An instruction that writes its result and then VF (R140), with both as numbers. -/
theorem exec_writeResultThenFlag_spec {i : Instr} {dest : RegIdx} {result flag : Byte} {r f : Nat}
    (h : exec i s = next (s.writeResultThenFlag dest result flag).advance) (hresult : result.toNat = r)
    (hflag : flag.toNat = f) :
    ∃ t, exec i s = next t ∧
      (∀ k, (t.readV k).toNat = if k = 15 then f else if k = dest then r else (s.readV k).toNat) ∧
      t.pc = s.pc + 2 ∧ t = { s with v := t.v, pc := t.pc } ∧ ∀ a, t.readByte a = s.readByte a := by
  refine ⟨_, h, fun k => ?_, rfl, rfl, fun _ => rfl⟩
  rw [State.readV_advance, State.readV_writeResultThenFlag, apply_ite BitVec.toNat, apply_ite BitVec.toNat, hresult,
    hflag]

/-- Settles O19: the six write one register each. -/
theorem loadsAndLogicWriteOneRegister : Obligations.LoadsAndLogicWriteOneRegister := by
  intro x y nn s
  refine ⟨⟨hasPattern_of_rowMatch (Laws.RowMatch.ldVxNn x nn) rfl, exec_writeV_spec rfl⟩,
    ⟨hasPattern_of_rowMatch (Laws.RowMatch.addVxNn x nn) rfl, ?_⟩,
    ⟨hasPattern_of_rowMatch (Laws.RowMatch.ldVxVy x y) rfl, exec_writeV_spec rfl⟩,
    ⟨hasPattern_of_rowMatch (Laws.RowMatch.orVxVy x y) rfl, exec_writeV_spec rfl⟩,
    ⟨hasPattern_of_rowMatch (Laws.RowMatch.andVxVy x y) rfl, exec_writeV_spec rfl⟩,
    ⟨hasPattern_of_rowMatch (Laws.RowMatch.xorVxVy x y) rfl, exec_writeV_spec rfl⟩⟩
  rw [← sumByte_eq_ofNat_mod]
  exact exec_writeV_spec rfl

/-- Settles O20: the result's register is VX, or VY for SUBN, and the flag comes after it. -/
theorem sumsAndDifferencesSetTheFlagLast : Obligations.SumsAndDifferencesSetTheFlagLast := by
  intro x y s
  refine ⟨⟨hasPattern_of_rowMatch (Laws.RowMatch.addVxVy x y) rfl, ?_⟩,
    ⟨hasPattern_of_rowMatch (Laws.RowMatch.subVxVy x y) rfl, ?_⟩,
    ⟨hasPattern_of_rowMatch (Laws.RowMatch.subnVxVy x y) rfl, ?_⟩⟩
  · exact exec_writeResultThenFlag_spec rfl (toNat_sumByte _ _) (toNat_carryFlag _ _)
  · exact exec_writeResultThenFlag_spec rfl (toNat_differenceByte _ _) (toNat_notBorrowFlag _ _)
  · exact exec_writeResultThenFlag_spec rfl (toNat_differenceByte _ _) (toNat_notBorrowFlag _ _)

/-- Settles O21. -/
theorem shiftsMoveOneBitIntoVf : Obligations.ShiftsMoveOneBitIntoVf := by
  intro x y s
  refine ⟨⟨hasPattern_of_rowMatch (Laws.RowMatch.shrVxVy x y) rfl, ?_⟩,
    ⟨hasPattern_of_rowMatch (Laws.RowMatch.shlVxVy x y) rfl, ?_⟩⟩
  · exact exec_writeResultThenFlag_spec rfl (toNat_shiftRightByte _) (toNat_shiftedOutRight _)
  · exact exec_writeResultThenFlag_spec rfl (toNat_shiftLeftByte _) (toNat_shiftedOutLeft _)

/-- Settles O22: the byte under the mask is the one RAND gives next. -/
theorem randomByteIsMasked : Obligations.RandomByteIsMasked := by
  intro x nn s
  refine ⟨hasPattern_of_rowMatch (Laws.RowMatch.rnd x nn) rfl, _, s.randByte, rfl, fun k => ?_, rfl, rfl, fun _ => rfl⟩
  rw [State.readV_advance, State.readV_countRandDraw, State.readV_writeV]

end Machine
end Sys2Proof

/-! # 43_index_memory.md: the index register and memory transfers

ANNN, FX1E and FX29 share one shape: I alone is written. FX33, FX55 and FX65 share the other: one range check, and
ADDR_MEM where it fails. What the two stores leave of memory is said above, under 20_memory.md. -/

namespace Sys2Proof
namespace Machine

open Host.Outcome (next)

variable {s : State}

/-! ### An opcode of format X (R82, R85) -/

/-- Format X as a number, with the bits its row fixes first. -/
theorem formatX_eq_ofNat_fixed_add (top : BitVec 4) (x : RegIdx) (fn : Byte) :
    formatX top x fn = BitVec.ofNat 16 (0x1000 * top.toNat + fn.toNat + 0x100 * x.val) := by
  rw [formatX_eq_ofNat, Nat.add_right_comm]

/-! ### I alone (R170 to R172) -/

/-- An instruction that writes I alone, with the value as a number. -/
theorem exec_setI_spec {i : Instr} {value : Word} {n : Nat} (h : exec i s = next { s with i := value }.advance)
    (hvalue : value.toNat = n) :
    ∃ t, exec i s = next t ∧ t.i.toNat = n ∧ t.pc = s.pc + 2 ∧ t = { s with i := t.i, pc := t.pc } ∧
      ∀ a, t.readByte a = s.readByte a :=
  ⟨_, h, hvalue, rfl, rfl, fun _ => rfl⟩

/-- Settles O26: the three write I alone, and their numbers are those of the operand forms. -/
theorem indexRegisterWrites : Obligations.IndexRegisterWrites := by
  intro x nnn s
  refine ⟨⟨hasPattern_of_rowMatch (Laws.RowMatch.ldINnn nnn) rfl, ?_⟩,
    ⟨hasPattern_of_rowMatch (Laws.RowMatch.addIVx x) rfl, ?_⟩,
    ⟨hasPattern_of_rowMatch (Laws.RowMatch.ldFVx x) rfl, ?_⟩⟩
  · exact exec_setI_spec rfl (toNat_addressOperand nnn)
  · exact exec_setI_spec rfl (BitVec.toNat_ofNat _ 16)
  · exact exec_setI_spec rfl (toNat_glyphAddress _)

/-! ### The bytes from I to I + `last` (R62, R173 to R175) -/

/-- FX65 inside memory. Its `v` is left abstract, so that a proof never unfolds it. -/
theorem execLdVxMem_of_fits (x : RegIdx) (h : s.i.toNat + x.val ≤ 0xFFF) :
    ∃ v' : Vector Byte 16,
      (∀ k : RegIdx, State.readV { s with v := v' } k = if k ≤ x then s.readByte (s.i.toNat + k.val) else s.readV k) ∧
      exec (.ldVxMem x) s = next { s with v := v' }.advance := by
  refine ⟨(s.loadRegistersUpTo x s.i.toNat).v, ?_, ?_⟩ <;> rw [← State.loadRegistersUpTo_frame]
  · exact fun k => s.readV_loadRegistersUpTo x k s.i.toNat
  · exact if_pos ((rangeFits_iff _ (x.val + 1)).mpr (.inr h))

/-- An instruction that checks the bytes from I to I + `last` before its first access takes ADDR_MEM where the last of them
is past memory, and writes nothing. -/
theorem exec_addrMem_spec {i : Instr} {last : Nat} {op : Word} {accessed : Host.Outcome State Fault Refusal}
    (h : exec i s = if rangeFits s.i.toNat (last + 1) then accessed else next (s.raiseFault .addrMem (encode i) s.i))
    (hop : encode i = op) (hpast : s.i.toNat + last > 0xFFF) :
    ∃ t, exec i s = next t ∧ FaultTaken s t .addrMem op s.i := by
  have hnot : ¬ rangeFits s.i.toNat (last + 1) = true := by rw [rangeFits_iff]; omega
  rw [if_neg hnot, hop] at h
  exact ⟨_, h, State.raiseFault_faultTaken _ _ _ (by decide)⟩

/-- Settles O27: the three digits one by one, the bytes outside, and the range check. -/
theorem decimalDigitsAreStored : Obligations.DecimalDigitsAreStored := by
  intro x s
  have hv : (s.readV x).toNat < 256 := (s.readV x).isLt
  have hbytes := s.readByte_storeBytes_decimalDigits (s.readV x) s.i.toNat
  refine ⟨hasPattern_of_rowMatch (Laws.RowMatch.ldBVx x) rfl, fun hfits => ?_,
    exec_addrMem_spec rfl (formatX_eq_ofNat_fixed_add 0xF x 0x33)⟩
  refine ⟨_, execLdBVx_of_fits x hfits, ?_, ?_, ?_, fun a ha => ?_, rfl, rfl⟩
  · rw [State.readByte_advance, hbytes, if_pos rfl, BitVec.toNat_ofNat]; omega
  · rw [State.readByte_advance, hbytes, if_neg (by omega), if_pos rfl, BitVec.toNat_ofNat]; omega
  · rw [State.readByte_advance, hbytes, if_neg (by omega), if_neg (by omega), if_pos rfl, BitVec.toNat_ofNat]; omega
  · rw [State.readByte_advance, hbytes, if_neg (by omega), if_neg (by omega), if_neg (by omega)]

/-- Settles O28: the byte of each register, the bytes outside, and the range check. -/
theorem registersAreStored : Obligations.RegistersAreStored := by
  intro x s
  have hbytes := s.readByte_storeBytes_registersUpTo x s.i.toNat
  refine ⟨hasPattern_of_rowMatch (Laws.RowMatch.ldMemVx x) rfl, fun hfits => ?_,
    exec_addrMem_spec rfl (formatX_eq_ofNat_fixed_add 0xF x 0x55)⟩
  refine ⟨_, execLdMemVx_of_fits x hfits, fun k hk => ?_, fun a ha => ?_, rfl, rfl⟩
  · have hinside : s.i.toNat ≤ s.i.toNat + k.val ∧ s.i.toNat + k.val ≤ s.i.toNat + x.val := by
      have := Fin.le_def.mp hk
      omega
    rw [State.readByte_advance, hbytes, if_pos hinside, Nat.add_sub_cancel_left]
    simp [Vector.getD, State.readV]
  · rw [State.readByte_advance, hbytes, if_neg (by omega)]

/-- Settles O29: each register after the load, and the range check. -/
theorem registersAreLoaded : Obligations.RegistersAreLoaded := by
  intro x s
  refine ⟨hasPattern_of_rowMatch (Laws.RowMatch.ldVxMem x) rfl, fun hfits => ?_,
    exec_addrMem_spec rfl (formatX_eq_ofNat_fixed_add 0xF x 0x65)⟩
  obtain ⟨v', hv', hexec⟩ := execLdVxMem_of_fits x hfits
  exact ⟨_, hexec, hv', rfl, rfl, fun _ => rfl⟩

end Machine
end Sys2Proof

/-! # 44_display.md: the framebuffer

DXYN has three outcomes, and the draw is one of them: `State.draw` of the sprite's pixels. What a draw does is then said of
a list of positions, as the XOR of all of them at once, which is R192's loop when no position comes twice. -/

namespace Sys2Proof
namespace Machine

open Host.Outcome (next)

variable {s t : State}

/-! ### The outcomes of DXYN (R192) -/

/-- The positions under the set bits of DXYN's sprite. -/
def State.spritePositions (s : State) (x y : RegIdx) (n : Nat) : List (Nat × Nat) :=
  setBits (s.readBytes s.i.toNat n) (s.readV x).toNat (s.readV y).toNat

theorem State.mem_spritePositions (s : State) (x y : RegIdx) (n px py : Nat) :
    (px, py) ∈ s.spritePositions x y n ↔ spriteSets s n (s.readV x).toNat (s.readV y).toNat px py :=
  s.mem_setBits_readBytes n _ _ px py

theorem State.spritePositions_onScreen (s : State) (x y : RegIdx) (n : Nat) :
    (s.spritePositions x y n).all onScreen = true ↔
      ∀ px py, spriteSets s n (s.readV x).toNat (s.readV y).toNat px py → px ≤ 63 ∧ py ≤ 31 :=
  setBits_all_onScreen n _ _

/-- The state after a draw of these positions. -/
def State.draw (s : State) (positions : List (Nat × Nat)) : State :=
  ({ s with fb := xorPixels s.fb positions, redraw := true }.writeV regF (collisionFlag s.fb positions)).advance

@[simp] theorem State.draw_fb (s : State) (positions : List (Nat × Nat)) :
    (s.draw positions).fb = xorPixels s.fb positions := rfl

theorem State.readV_draw (s : State) (positions : List (Nat × Nat)) (k : RegIdx) :
    (s.draw positions).readV k = if k = 15 then collisionFlag s.fb positions else s.readV k := by
  rw [State.draw, State.readV_advance, State.readV_writeV]
  exact ite_congr rfl (fun _ => rfl) fun _ => State.readV_congr s (by rfl) k

theorem execDrw_of_past_memory (x y : RegIdx) {n : Nat} (hfits : ¬ rangeFits s.i.toNat n = true) :
    exec (.drw x y n) s = next (s.raiseFault .addrMem (encode (.drw x y n)) s.i) := if_neg hfits

theorem execDrw_of_off_screen (x y : RegIdx) {n : Nat} (hfits : rangeFits s.i.toNat n = true)
    (hon : ¬ (s.spritePositions x y n).all onScreen = true) :
    exec (.drw x y n) s =
      next (s.raiseFault .addrFb (encode (.drw x y n)) (spriteOrigin (s.readV x) (s.readV y))) :=
  (if_pos hfits).trans (if_neg hon)

theorem execDrw_of_on_screen {x y : RegIdx} {n : Nat} (hfits : rangeFits s.i.toNat n = true)
    (hon : (s.spritePositions x y n).all onScreen = true) :
    exec (.drw x y n) s = next (s.draw (s.spritePositions x y n)) :=
  (if_pos hfits).trans (if_pos hon)

/-- A DXYN that completes passed both checks, and drew. -/
theorem execDrw_completed {x y : RegIdx} {n : Nat} (h : exec (.drw x y n) s = next t) (ht : t.core = .fetching) :
    rangeFits s.i.toNat n = true ∧ (s.spritePositions x y n).all onScreen = true ∧
      t = s.draw (s.spritePositions x y n) := by
  by_cases hfits : rangeFits s.i.toNat n = true
  · by_cases hon : (s.spritePositions x y n).all onScreen = true
    · rw [execDrw_of_on_screen hfits hon] at h
      exact ⟨hfits, hon, (Host.Outcome.next.inj h).symm⟩
    · rw [execDrw_of_off_screen x y hfits hon] at h
      cases h
      cases ht
  · rw [execDrw_of_past_memory x y hfits] at h
    cases h
    cases ht

theorem spriteOrigin_eq_ofNat (vx vy : Byte) : spriteOrigin vx vy = BitVec.ofNat 16 (256 * vx.toNat + vy.toNat) := by
  have := vx.isLt
  have := vy.isLt
  apply BitVec.eq_of_toNat_eq
  rw [spriteOrigin, BitVec.toNat_append, ← Nat.shiftLeft_add_eq_or_of_lt vy.isLt, Nat.shiftLeft_eq, BitVec.toNat_ofNat]
  omega

theorem encode_drw (x y : RegIdx) {n : Nat} (hn : n ≤ 15) :
    encode (.drw x y n) = BitVec.ofNat 16 (0xD000 + 0x100 * x.val + 0x10 * y.val + n) :=
  formatXYN_eq_ofNat 0xD x y n hn

/-! ### The XOR and the collision, pixel by pixel -/

theorem getElem_xorPixels_of_mem (fb : Framebuffer) {positions : List (Nat × Nat)} (py : Fin 32) (px : Fin 64)
    (h : (px.val, py.val) ∈ positions) : (xorPixels fb positions)[py.val][px.val] = !fb[py.val][px.val] := by
  simp [getElem_xorPixels, h]

theorem getElem_xorPixels_of_not_mem (fb : Framebuffer) {positions : List (Nat × Nat)} (py : Fin 32) (px : Fin 64)
    (h : (px.val, py.val) ∉ positions) : (xorPixels fb positions)[py.val][px.val] = fb[py.val][px.val] := by
  simp [getElem_xorPixels, h]

theorem pixel_eq_true_iff (fb : Framebuffer) (x y : Nat) :
    pixel fb x y = true ↔ ∃ (py : Fin 32) (px : Fin 64), (px.val, py.val) = (x, y) ∧ fb[py.val][px.val] = true := by
  constructor
  · intro h
    unfold pixel at h
    split at h
    · next hin => exact ⟨⟨y, hin.2⟩, ⟨x, hin.1⟩, rfl, h⟩
    · cases h
  · rintro ⟨py, px, hp, h⟩
    cases hp
    rw [pixel_of_onScreen fb _ _ px.isLt py.isLt, h]

theorem collisionFlag_eq_one_iff (fb : Framebuffer) (positions : List (Nat × Nat)) :
    collisionFlag fb positions = 1 ↔
      ∃ (py : Fin 32) (px : Fin 64), (px.val, py.val) ∈ positions ∧ fb[py.val][px.val] = true := by
  rw [collisionFlag, flagByte_eq_one, List.any_eq_true]
  constructor
  · rintro ⟨⟨x, y⟩, hmem, hset⟩
    obtain ⟨py, px, hp, hset⟩ := (pixel_eq_true_iff fb x y).mp hset
    exact ⟨py, px, hp ▸ hmem, hset⟩
  · rintro ⟨py, px, hmem, hset⟩
    exact ⟨_, hmem, (pixel_eq_true_iff fb _ _).mpr ⟨py, px, rfl, hset⟩⟩

theorem collisionFlag_eq_zero_iff (fb : Framebuffer) (positions : List (Nat × Nat)) :
    collisionFlag fb positions = 0 ↔
      ∀ (py : Fin 32) (px : Fin 64), (px.val, py.val) ∈ positions → fb[py.val][px.val] = false := by
  have h := collisionFlag_eq_one_iff fb positions
  rw [collisionFlag, flagByte_eq_one] at h
  rw [collisionFlag, flagByte_eq_zero, ← Bool.not_eq_true, h]
  simp only [not_exists, not_and, Bool.not_eq_true]

/-! ### 00E0 and DXYN (R190, R192) -/

/-- Settles O31. -/
theorem clearTurnsEveryPixelOff : Obligations.ClearTurnsEveryPixelOff := by
  refine ⟨hasPattern_of_rowMatch Laws.RowMatch.cls rfl, fun s => ⟨_, rfl, fun y x => ?_, rfl, rfl, rfl, fun _ => rfl⟩⟩
  simp

/-- Settles O32: the three outcomes of DXYN, and what a draw does to each pixel and to VF. -/
theorem drawXorsTheSprite : Obligations.DrawXorsTheSprite := by
  intro x y n s hn vx vy op sets
  have hop : encode (.drw x y n) = op := encode_drw x y hn
  have hfits_iff : rangeFits s.i.toNat n = true ↔ n = 0 ∨ s.i.toNat + n - 1 ≤ 0xFFF := rangeFits_iff ..
  have hon_iff : (s.spritePositions x y n).all onScreen = true ↔ ∀ px py, sets px py → px ≤ 63 ∧ py ≤ 31 :=
    s.spritePositions_onScreen x y n
  have hmem (px py : Nat) : (px, py) ∈ s.spritePositions x y n ↔ sets px py := s.mem_spritePositions x y n px py
  refine ⟨hasPattern_of_rowMatch (Laws.RowMatch.drw x y n) (decide_eq_true hn), fun hpast => ?_, fun hfits hoff => ?_,
    fun hfits hon => ?_⟩
  · have hfits : ¬ rangeFits s.i.toNat n = true := by rw [hfits_iff]; omega
    rw [← hop]
    exact ⟨_, execDrw_of_past_memory x y hfits, State.raiseFault_faultTaken _ _ _ (by decide)⟩
  · have hon : ¬ (s.spritePositions x y n).all onScreen = true := fun hon => by
      obtain ⟨px, py, hset, hout⟩ := hoff
      obtain ⟨hpx, hpy⟩ := hon_iff.mp hon px py hset
      omega
    rw [← hop, ← spriteOrigin_eq_ofNat]
    exact ⟨_, execDrw_of_off_screen x y (hfits_iff.mpr hfits) hon, State.raiseFault_faultTaken _ _ _ (by decide)⟩
  · refine ⟨_, execDrw_of_on_screen (hfits_iff.mpr hfits) (hon_iff.mpr hon), fun py px => ?_, ?_, ?_, ?_, rfl, rfl, rfl,
      fun _ => rfl⟩
    · rw [← hmem, State.draw_fb]
      exact ⟨getElem_xorPixels_of_mem s.fb py px, getElem_xorPixels_of_not_mem s.fb py px⟩
    · rintro ⟨py, px, hset, hlit⟩
      rw [State.readV_draw, if_pos rfl, collisionFlag_eq_one_iff]
      exact ⟨py, px, (hmem ..).mpr hset, hlit⟩
    · intro hclear
      rw [State.readV_draw, if_pos rfl, collisionFlag_eq_zero_iff]
      exact fun py px h => hclear py px ((hmem ..).mp h)
    · intro k hk
      rw [State.readV_draw, if_neg hk]

/-! ### R192's loop -/

/-- The loop's body at a position under a set bit. -/
def togglePosition (drawn : Framebuffer × Bool) (p : Nat × Nat) : Framebuffer × Bool :=
  (togglePixel drawn.1 p.1 p.2, drawn.2 || pixel drawn.1 p.1 p.2)

/-- The double loop visits the positions under set bits, in their order. -/
theorem drawLoop_eq_foldl (rows : List Byte) (vx vy : Nat) (fb : Framebuffer) :
    drawLoop rows vx vy fb = (setBits rows vx vy).foldl togglePosition (fb, false) := by
  simp only [setBits, List.foldl_flatMap, List.foldl_map, List.foldl_filter]
  rfl

theorem getElem_togglePixel (fb : Framebuffer) (p : Nat × Nat) (y x : Nat) (hy : y < 32) (hx : x < 64) :
    (togglePixel fb p.1 p.2)[y][x] = (fb[y][x] ^^ decide ((x, y) = p)) := by
  obtain ⟨px, py⟩ := p
  unfold togglePixel
  split
  next =>
    by_cases hpy : py = y
    · by_cases hpx : px = x
      · subst hpy hpx; simp
      · subst hpy; simp [hpx, Ne.symm hpx]
    · simp [hpy, Ne.symm hpy]
  next hout =>
    have hne : (x, y) ≠ (px, py) := by rintro ⟨⟩; exact hout ⟨hx, hy⟩
    simp [hne]

theorem pixel_togglePixel_of_ne (fb : Framebuffer) {p q : Nat × Nat} (h : q ≠ p) :
    pixel (togglePixel fb p.1 p.2) q.1 q.2 = pixel fb q.1 q.2 := by
  unfold pixel
  split
  · simp [getElem_togglePixel, h]
  · rfl

/-- A position that does not come again is toggled once. -/
theorem xorPixels_togglePixel (fb : Framebuffer) {p : Nat × Nat} {positions : List (Nat × Nat)} (h : p ∉ positions) :
    xorPixels (togglePixel fb p.1 p.2) positions = xorPixels fb (p :: positions) := by
  ext y hy x hx
  rw [getElem_xorPixels _ _ _ _ hy hx, getElem_xorPixels _ _ _ _ hy hx, getElem_togglePixel]
  by_cases hp : (x, y) = p
  · simp [hp, h]
  · simp [hp]

/-- Distinct positions toggled one after another are the XOR of all of them, and a collision is seen as it was before. -/
theorem foldl_togglePosition {positions : List (Nat × Nat)} (h : positions.Nodup) (fb : Framebuffer) (collision : Bool) :
    positions.foldl togglePosition (fb, collision) =
      (xorPixels fb positions, collision || positions.any fun p => pixel fb p.1 p.2) := by
  induction positions generalizing fb collision with
  | nil => simp [xorPixels]
  | cons p positions ih =>
    obtain ⟨hp, hrest⟩ := List.nodup_cons.mp h
    have hany : (positions.any fun q => pixel (togglePixel fb p.1 p.2) q.1 q.2) =
        positions.any fun q => pixel fb q.1 q.2 :=
      Bool.eq_iff_iff.mpr <| by
        simp only [List.any_eq_true]
        refine exists_congr fun q => and_congr_right fun hq => ?_
        rw [pixel_togglePixel_of_ne fb (ne_of_mem_of_not_mem hq hp)]
    rw [List.foldl_cons, togglePosition, ih hrest, xorPixels_togglePixel fb hp, hany, List.any_cons, Bool.or_assoc]

/-- No two set bits of a sprite are at one position. -/
theorem setBits_nodup (rows : List Byte) (vx vy : Nat) : (setBits rows vx vy).Nodup := by
  have hindices : rows.zipIdx.Pairwise fun p q => p.2 ≠ q.2 := List.pairwise_map.mp rows.nodup_zipIdx_map_snd
  refine List.nodup_flatMap.mpr ⟨fun p _ => ?_, hindices.imp fun {p q} hne => ?_⟩
  · exact (List.nodup_range.filter _).map fun c c' h => by simpa using h
  · simp only [Function.onFun, List.disjoint_left, List.mem_map]
    rintro _ ⟨c, -, rfl⟩ ⟨c', -, h⟩
    rw [Prod.mk.injEq] at h
    omega

theorem drawLoop_eq (rows : List Byte) (vx vy : Nat) (fb : Framebuffer) :
    drawLoop rows vx vy fb =
      (xorPixels fb (setBits rows vx vy), (setBits rows vx vy).any fun p => pixel fb p.1 p.2) := by
  rw [drawLoop_eq_foldl, foldl_togglePosition (setBits_nodup rows vx vy), Bool.false_or]

/-- Settles O33, by `drawLoop_eq`. -/
theorem drawIsThePixelLoop : Obligations.DrawIsThePixelLoop := by
  intro x y n s t _ hexec ht rows loop
  obtain ⟨-, -, rfl⟩ := execDrw_completed hexec ht
  have hloop : loop = _ := drawLoop_eq rows (s.readV x).toNat (s.readV y).toNat s.fb
  -- The rows of the statement are `State.readBytes` written out.
  rw [hloop, State.readV_draw, if_pos rfl]
  exact ⟨rfl, rfl⟩

/-! ### Drawing twice (R193) -/

/-- A second draw collides where the first one found a pixel clear. -/
theorem collisionFlag_xorPixels_eq_one_iff (fb : Framebuffer) (positions : List (Nat × Nat)) :
    collisionFlag (xorPixels fb positions) positions = 1 ↔
      ∃ (py : Fin 32) (px : Fin 64), (px.val, py.val) ∈ positions ∧ fb[py.val][px.val] = false := by
  rw [collisionFlag_eq_one_iff]
  refine exists_congr fun py => exists_congr fun px => and_congr_right fun hmem => ?_
  rw [getElem_xorPixels_of_mem fb py px hmem, Bool.not_eq_true']

/-- A draw of other registers than VF leaves the next draw the same sprite at the same place. -/
theorem State.spritePositions_draw (s : State) {x y : RegIdx} (hx : x ≠ 15) (hy : y ≠ 15) (n : Nat)
    (positions : List (Nat × Nat)) : (s.draw positions).spritePositions x y n = s.spritePositions x y n := by
  rw [State.spritePositions, State.readV_draw, State.readV_draw, if_neg hx, if_neg hy]
  rfl

/-- Settles O34: the second draw is of the same positions, and XOR is its own inverse. -/
theorem drawingTwiceRestoresTheScreen : Obligations.DrawingTwiceRestoresTheScreen := by
  intro x y n s t hx hy _ hexec ht sets
  obtain ⟨hfits, hon, rfl⟩ := execDrw_completed hexec ht
  have hmem (px py : Nat) : (px, py) ∈ s.spritePositions x y n ↔ sets px py := s.mem_spritePositions x y n px py
  have hsame := s.spritePositions_draw hx hy n (s.spritePositions x y n)
  have hagain := execDrw_of_on_screen (s := s.draw (s.spritePositions x y n)) hfits (hsame.symm ▸ hon)
  rw [hsame] at hagain
  refine ⟨?_, _, hagain, ht, xorPixels_twice .., ?_⟩
  · simp only [State.readV_draw, if_true, collisionFlag_eq_one_iff, hmem]
  · simp only [State.readV_draw, if_true, State.draw_fb, collisionFlag_xorPixels_eq_one_iff, hmem]

/-- The reset state with every pixel on. V0 = 0 and I = 0, so D001 draws the top row of the glyph 0, 0xF0. -/
def fullScreen : State := { State.reset with fb := Vector.replicate 32 (Vector.replicate 64 true) }

/-- Refutes O35: on a full screen the first draw clears every pixel under the sprite, so the second finds none set. -/
theorem not_secondDrawFlagAsTheLawWordsIt : ¬ Obligations.SecondDrawFlagAsTheLawWordsIt := by
  intro h
  have hfirst := execDrw_of_on_screen (s := fullScreen) (x := 0) (y := 0) (n := 1) (by decide) (by decide)
  obtain ⟨-, u, hsecond, hu, -, hflag⟩ :=
    drawingTwiceRestoresTheScreen 0 0 1 fullScreen _ (by decide) (by decide) rfl hfirst rfl
  have hrow : fullScreen.readByte (fullScreen.i.toNat + 0) ≠ 0 := by decide
  have hset := (h 0 0 1 fullScreen _ u (by decide) (by decide) rfl hfirst rfl hsecond hu).mpr ⟨0, Nat.one_pos, hrow⟩
  obtain ⟨py, px, -, hclear⟩ := hflag.mp hset
  simp [fullScreen] at hclear

/-! ### What writes the framebuffer (R194) -/

/-- Of the instructions only 00E0 and DXYN write the framebuffer, so of the CYCLEs only those that run one. -/
theorem cycle_fb_writers (h : cycle s = next t) (hne : t.fb ≠ s.fb) :
    s.core = .fetching ∧
      (decodeWord s.opcodeAtPc = .ok .cls ∨ ∃ x y n, decodeWord s.opcodeAtPc = .ok (.drw x y n)) := by
  rcases cycle_cases h with ⟨-, rfl⟩ | ⟨x, -, rfl⟩ | ⟨-, -, rfl⟩ | ⟨hcore, -, i, u, hi, hexec, rfl⟩ | ⟨-, -, -, rfl⟩
  · exact absurd rfl hne
  · rw [State.cycleTick_frame, State.pollKey_frame] at hne; exact absurd rfl hne
  · exact absurd rfl hne
  · rw [State.cycleTick_frame] at hne
    rw [s.fetchOpcode_eq_opcodeAtPc] at hi
    obtain ⟨-, -, -, -, -, hfb, -⟩ := (exec_effect i hexec).writers
    obtain rfl | ⟨x, y, n, rfl⟩ := hfb (.inl hne)
    · exact ⟨hcore, .inl hi⟩
    · exact ⟨hcore, .inr ⟨x, y, n, hi⟩⟩
  · rw [State.cycleTick_frame] at hne; exact absurd rfl hne

/-- RESET clears the framebuffer, or leaves it. -/
theorem State.hostReset_fb (s : State) (image : List Byte) :
    (∀ (y : Fin 32) (x : Fin 64), (s.hostReset image).fb[y.val][x.val] = false) ∨ (s.hostReset image).fb = s.fb := by
  cases hfits : imageFits image with
  | false => rw [State.hostReset_of_not_fits hfits]; exact .inr rfl
  | true => rw [State.hostReset_of_fits hfits]; left; simp [State.resetCore, State.reset]

/-- Settles O36, operation by operation. -/
theorem framebufferChangesOnlyByClearAndDraw : Obligations.FramebufferChangesOnlyByClearAndDraw := by
  intro s t h hne
  rcases step_cases h with ⟨hops, -, hc⟩ | ⟨rest, hops, -, hc⟩ | ⟨rest, -, -, rfl⟩ | ⟨_, rest, -, rfl⟩ |
    ⟨_, rest, -, rfl⟩ | ⟨rest, -, rfl⟩ | ⟨image, rest, hops, rfl⟩
  · obtain ⟨hcore, hop⟩ := cycle_fb_writers hc hne
    exact .inl ⟨hcore, .inl hops, hop⟩
  · obtain ⟨hcore, hop⟩ := cycle_fb_writers hc hne
    exact .inl ⟨hcore, .inr ⟨rest, hops⟩, hop⟩
  · rw [State.tick_frame] at hne; exact absurd rfl hne
  · exact absurd rfl hne
  · exact absurd rfl hne
  · exact absurd rfl hne
  · exact .inr ⟨image, rest, hops, (State.hostReset_fb _ image).resolve_right hne⟩

end Machine
end Sys2Proof

/-! # 45_keypad_timers.md: the keypad and the timers

EX9E and EXA1 share one check of the key index, with a skip where it passes and ADDR_KEY where it fails. FX0A has the
two outcomes of the key poll: no key is pressed, or the pressed keys have a first one. -/

namespace Sys2Proof
namespace Machine

open Host.Outcome (next)

variable {s : State}

/-! ### The key wait (R213, R217) -/

theorem State.exists_pressedKeys_eq_cons {k : RegIdx} (hk : s.key[k.val] = true) :
    ∃ first others, s.pressedKeys = first :: others :=
  List.exists_cons_of_ne_nil (List.ne_nil_of_mem ((s.mem_pressedKeys k).mpr hk))

/-- Settles O39: with a key pressed, the recorded key is the one KEY_SELECT takes. -/
theorem waitForKeyCompletesOrWaits : Obligations.WaitForKeyCompletesOrWaits := by
  intro x s
  refine ⟨hasPattern_of_rowMatch (Laws.RowMatch.ldVxK x) rfl, fun hnone => ?_, fun ⟨k, hk⟩ => ?_⟩
  · exact execLdVxK_of_nil s x (s.pressedKeys_eq_nil.mpr hnone)
  · obtain ⟨first, others, hkeys⟩ := State.exists_pressedKeys_eq_cons hk
    obtain ⟨hpressed, hlowest⟩ := s.selectKey_spec first others hkeys
    refine ⟨_, s.selectKey first others, execLdVxK_of_cons s x hkeys, hpressed, hlowest,
      fun j => s.toNat_readV_recordKey x first j others, ?_⟩
    rw [State.recordKey_eq]
    exact ⟨rfl, rfl, fun _ => rfl⟩

/-! ### The key skips (R210, R211) -/

theorem isKeyIndex_iff (k : Byte) : isKeyIndex k = true ↔ k.toNat ≤ 0xF := decide_eq_true_iff

theorem State.keyPressed_of_le {k : Nat} (hk : k ≤ 0xF) : s.keyPressed k = s.key[k] := by
  have hlt : k < 16 := Nat.lt_succ_of_le hk
  simp [State.keyPressed, Vector.getD, hlt]

theorem State.skipIf_not_pc (c : Bool) : (s.skipIf (!c)).pc = if c then s.pc + 2 else s.pc + 4 := by
  cases c <;> rfl

theorem execSkp_of_key (x : RegIdx) (hk : (s.readV x).toNat ≤ 0xF) :
    exec (.skp x) s = next (s.skipIf s.key[(s.readV x).toNat]) := by
  rw [← State.keyPressed_of_le hk]
  exact if_pos ((isKeyIndex_iff _).mpr hk)

theorem execSknp_of_key (x : RegIdx) (hk : (s.readV x).toNat ≤ 0xF) :
    exec (.sknp x) s = next (s.skipIf !s.key[(s.readV x).toNat]) := by
  rw [← State.keyPressed_of_le hk]
  exact if_pos ((isKeyIndex_iff _).mpr hk)

/-- An instruction that checks the key index in VX takes ADDR_KEY where it is above 0xF, with the index as its detail. -/
theorem exec_addrKey_spec {i : Instr} {x : RegIdx} {op : Word} {skipped : Host.Outcome State Fault Refusal}
    (h : exec i s = if isKeyIndex (s.readV x) then skipped
      else next (s.raiseFault .addrKey (encode i) (zext16 (s.readV x))))
    (hop : encode i = op) (hpast : (s.readV x).toNat > 0xF) :
    ∃ t, exec i s = next t ∧ FaultTaken s t .addrKey op (BitVec.ofNat 16 (s.readV x).toNat) := by
  have hnot : ¬ isKeyIndex (s.readV x) = true := by rw [isKeyIndex_iff]; omega
  rw [if_neg hnot, hop] at h
  rw [BitVec.ofNat_toNat]
  exact ⟨_, h, State.raiseFault_faultTaken .addrKey _ _ (by decide)⟩

/-- Settles O37: where the index is a key's, the condition of EXA1 is the negation of that of EX9E. -/
theorem keySkipsAddFourOrTwo : Obligations.KeySkipsAddFourOrTwo := by
  intro x s k
  refine ⟨hasPattern_of_rowMatch (Laws.RowMatch.skp x) rfl, hasPattern_of_rowMatch (Laws.RowMatch.sknp x) rfl,
    fun hk => ⟨?_, ?_⟩, fun hk => ⟨?_, ?_⟩⟩
  · exact ⟨_, execSkp_of_key x hk, rfl, rfl, fun _ => rfl⟩
  · exact ⟨_, execSknp_of_key x hk, State.skipIf_not_pc _, rfl, fun _ => rfl⟩
  · exact exec_addrKey_spec rfl (formatX_eq_ofNat_fixed_add 0xE x 0x9E) hk
  · exact exec_addrKey_spec rfl (formatX_eq_ofNat_fixed_add 0xE x 0xA1) hk

/-! ### The timer registers (R212, R215, R216) -/

/-- Settles O38: FX07 has the shape of a register load, and the other two write their timer. -/
theorem timerRegisterMoves : Obligations.TimerRegisterMoves := by
  intro x s
  refine ⟨⟨hasPattern_of_rowMatch (Laws.RowMatch.ldVxDt x) rfl, exec_writeV_spec rfl⟩,
    ⟨hasPattern_of_rowMatch (Laws.RowMatch.ldDtVx x) rfl, ?_⟩,
    ⟨hasPattern_of_rowMatch (Laws.RowMatch.ldStVx x) rfl, ?_⟩⟩
  · exact ⟨{ s with dt := s.readV x }.advance, rfl, rfl, rfl, rfl, fun _ => rfl⟩
  · exact ⟨{ s with st := s.readV x }.advance, rfl, rfl, rfl, rfl, fun _ => rfl⟩

end Machine
end Sys2Proof

/-! # 60_exceptions.md: faults, ticks, events and the host's operations

What each operation may do to the core state and to the events, once; then which instruction faults where, with one shape
for those that check a condition first; what a run of TICKs counts; and that a CYCLE does the same whatever the script. -/

namespace Sys2Proof
namespace Machine

open Host.Outcome (next)

variable {s t : State}

/-! ### Operations that answer a next state (R251, R273) -/

theorem perform_cycle_iff : perform .cycle s = next t ↔ s.loadRejected = false ∧ cycle s = next t := by
  cases hloaded : s.loadRejected <;> simp [perform, hloaded]

theorem eq_tick_of_perform (h : perform .tick s = next t) : t = s.tick := by
  simp only [perform] at h
  split at h <;> cases h
  rfl

/-- RESET of an image that fits leaves the core Fetching and emits nothing; of one that does not, it leaves the core. -/
theorem State.hostReset_cases (s : State) (image : List Byte) :
    (image.length ≤ 3584 ∧ (s.hostReset image).core = .fetching ∧ (s.hostReset image).events = s.events) ∨
    s.hostReset image = { s with replies := s.replies ++ [.loadFault image.length], loadRejected := true } := by
  cases hfits : imageFits image with
  | true => rw [State.hostReset_of_fits hfits]; exact .inl ⟨of_decide_eq_true hfits, rfl, rfl⟩
  | false => exact .inr (State.hostReset_of_not_fits hfits)

@[simp] theorem State.cycleTick_core (s : State) : s.cycleTick.core = s.core := by rw [s.cycleTick_frame]

theorem State.cycleTick_of_faulted (h : s.core = .faulted) : s.cycleTick = s := by
  rw [State.cycleTick_eq, s.tick_of_faulted h, ite_self]

/-! ### Leaving Faulted and the key wait (R239, R256) -/

/-- Settles O11: a CYCLE and a Tick() do nothing in Faulted, and a rejected RESET leaves the core. -/
theorem onlyResetLeavesFaulted : Obligations.OnlyResetLeavesFaulted := by
  intro s t hcore hstep
  rcases step_cases hstep with ⟨-, -, hc⟩ | ⟨rest, -, -, hc⟩ | ⟨rest, -, -, rfl⟩ | ⟨_, rest, -, rfl⟩ |
    ⟨_, rest, -, rfl⟩ | ⟨rest, -, rfl⟩ | ⟨image, rest, hops, rfl⟩
  · rw [cycle_of_faulted hcore] at hc
    cases hc
    exact .inl ⟨hcore, rfl, rfl, rfl, rfl⟩
  · rw [cycle_of_faulted (s := { s with hostOps := rest }) hcore] at hc
    cases hc
    exact .inl ⟨hcore, rfl, rfl, rfl, rfl⟩
  · rw [State.tick_of_faulted { s with hostOps := rest } hcore]
    exact .inl ⟨hcore, rfl, rfl, rfl, rfl⟩
  · exact .inl ⟨hcore, rfl, rfl, rfl, rfl⟩
  · exact .inl ⟨hcore, rfl, rfl, rfl, rfl⟩
  · exact .inl ⟨hcore, rfl, rfl, rfl, rfl⟩
  · rcases State.hostReset_cases { s with hostOps := rest } image with ⟨hfits, -⟩ | hrejected
    · exact .inr ⟨image, rest, hops, hfits⟩
    · rw [hrejected]
      exact .inl ⟨hcore, rfl, rfl, rfl, rfl⟩

/-- A CYCLE that ends the wait finds a pressed key, and leaves the core Fetching. -/
theorem cycle_ends_wait {x : RegIdx} (hcore : s.core = .awaitingKey x) (hc : cycle s = next t)
    (hne : t.core ≠ .awaitingKey x) : (∃ k : Fin 16, s.key[k.val] = true) ∧ t.core = .fetching := by
  rw [cycle_of_awaitingKey hcore] at hc
  cases hc
  rw [State.cycleTick_core] at hne ⊢
  cases hkeys : s.pressedKeys with
  | nil => rw [s.pollKey_of_nil x hkeys] at hne; exact absurd hcore hne
  | cons first others =>
    rw [s.pollKey_of_cons x hkeys]
    exact ⟨⟨first, (s.mem_pressedKeys first).mp (by simp [hkeys])⟩, rfl⟩

/-- Settles O41, operation by operation. -/
theorem onlyAKeyOrResetEndsTheWait : Obligations.OnlyAKeyOrResetEndsTheWait := by
  intro x s t hcore hstep hne
  rcases step_cases hstep with ⟨hops, -, hc⟩ | ⟨rest, hops, -, hc⟩ | ⟨rest, -, -, rfl⟩ | ⟨_, rest, -, rfl⟩ |
    ⟨_, rest, -, rfl⟩ | ⟨rest, -, rfl⟩ | ⟨image, rest, hops, rfl⟩
  · exact .inl ⟨.inl hops, cycle_ends_wait hcore hc hne⟩
  · exact .inl ⟨.inr ⟨rest, hops⟩, cycle_ends_wait (s := { s with hostOps := rest }) hcore hc hne⟩
  · rw [State.tick_core] at hne; exact absurd hcore hne
  · exact absurd hcore hne
  · exact absurd hcore hne
  · exact absurd hcore hne
  · rcases State.hostReset_cases { s with hostOps := rest } image with ⟨hfits, -⟩ | hrejected
    · exact .inr ⟨image, rest, hops, hfits⟩
    · rw [hrejected] at hne
      exact absurd hcore hne

/-! ### Which instruction faults where (R231, R232, R236) -/

/-- What R231's table, in the order of R236, has of an instruction in a state. -/
def MeetsFaultTable (i : Instr) (s : State) : Prop :=
  ∃ t, exec i s = next t ∧
    (faultOf i s = .noFault → t.core ≠ .faulted ∧ t.latch = s.latch) ∧
    (faultOf i s ≠ .noFault → FaultTaken s t (faultOf i s) (encode i) (faultInfo (faultOf i s) i s))

theorem MeetsFaultTable.of_completed {i : Instr} (hfault : faultOf i s = .noFault) (hexec : exec i s = next t)
    (hcore : t.core ≠ .faulted) (hlatch : t.latch = s.latch) : MeetsFaultTable i s :=
  ⟨t, hexec, fun _ => ⟨hcore, hlatch⟩, fun hne => absurd hfault hne⟩

theorem MeetsFaultTable.of_fault {i : Instr} {code : FaultCode} (hfault : faultOf i s = code) (hcode : code ≠ .noFault)
    (h : ∃ t, exec i s = next t ∧ FaultTaken s t code (encode i) (faultInfo code i s)) : MeetsFaultTable i s := by
  subst hfault
  obtain ⟨t, hexec, htaken⟩ := h
  exact ⟨t, hexec, fun hnone => absurd hnone hcode, fun _ => htaken⟩

/-- The shape of the instructions with one condition in the table: past it they fault, and else they complete. -/
theorem MeetsFaultTable.of_check {i : Instr} {code : FaultCode} (past : Prop) [Decidable past]
    (hfault : faultOf i s = if past then code else .noFault) (hcode : code ≠ .noFault) (hcore : s.core = .fetching)
    (hpass : ¬ past → ∃ t, exec i s = next t ∧ t.core = s.core ∧ t.latch = s.latch)
    (hfail : past → ∃ t, exec i s = next t ∧ FaultTaken s t code (encode i) (faultInfo code i s)) :
    MeetsFaultTable i s := by
  by_cases h : past
  · exact .of_fault (hfault.trans (if_pos h)) hcode (hfail h)
  · obtain ⟨t, hexec, htcore, hlatch⟩ := hpass h
    exact .of_completed (hfault.trans (if_neg h)) hexec (by simp [htcore, hcore]) hlatch

theorem faultOf_of_not_mayFault {i : Instr} (hmay : ¬ mayFault i) (s : State) : faultOf i s = .noFault := by
  cases i
  case ret | call | ldBVx | ldMemVx | ldVxMem | drw | skp | sknp => exact absurd (by simp [mayFault]) hmay
  all_goals rfl

/-- An instruction that is not in the table writes no latch, and at most waits for a key. -/
theorem MeetsFaultTable.of_not_mayFault {i : Instr} (hmay : ¬ mayFault i) (hcore : s.core = .fetching) :
    MeetsFaultTable i s := by
  obtain ⟨t, hexec⟩ := exec_next i s
  obtain ⟨-, -, -, -, -, -, -, -, hwait, hlatch, -⟩ := (exec_effect i hexec).writers
  refine .of_completed (faultOf_of_not_mayFault hmay s) hexec (fun hfaulted => ?_)
    (by_contra fun hne => hmay (hlatch hne).1)
  obtain ⟨x, -, hx⟩ | ⟨hmay', -⟩ := hwait (by simp [hfaulted, hcore])
  · rw [hfaulted] at hx; cases hx
  · exact hmay hmay'

/-- The condition of ADDR_FB is that some set bit of the sprite is off the screen. -/
theorem faultOf_drw (s : State) (x y : RegIdx) (n : Nat) :
    faultOf (.drw x y n) s =
      if ¬ rangeFits s.i.toNat n = true then .addrMem
      else if ¬ (s.spritePositions x y n).all onScreen = true then .addrFb else .noFault := by
  have hpast : (n > 0 ∧ s.i.toNat + n - 1 > 0xFFF) ↔ ¬ rangeFits s.i.toNat n = true := by
    rw [rangeFits_iff]; omega
  have hoff : ((List.range n).any fun r => (List.range 8).any fun c => (s.readByte (s.i.toNat + r)).getLsbD (7 - c) &&
      (decide ((s.readV x).toNat + c > 63) || decide ((s.readV y).toNat + r > 31))) = true ↔
      ¬ (s.spritePositions x y n).all onScreen = true := by
    rw [s.spritePositions_onScreen]
    simp only [List.any_eq_true, List.mem_range, Bool.and_eq_true, Bool.or_eq_true, decide_eq_true_eq, spriteSets]
    constructor
    · rintro ⟨r, hr, c, hc, hbit, hout⟩ hon
      have := hon _ _ ⟨r, c, hr, by omega, rfl, rfl, hbit⟩
      omega
    · intro hoff
      push Not at hoff
      obtain ⟨_, _, ⟨r, c, hr, hc, rfl, rfl, hbit⟩, hout⟩ := hoff
      exact ⟨r, hr, c, by omega, hbit, by omega⟩
  simp only [faultOf, hpast, hoff]

theorem MeetsFaultTable.drw (x y : RegIdx) (n : Nat) (hcore : s.core = .fetching) :
    MeetsFaultTable (.drw x y n) s := by
  have hfault := faultOf_drw s x y n
  by_cases hfits : rangeFits s.i.toNat n = true
  · rw [if_neg (not_not.mpr hfits)] at hfault
    refine .of_check _ hfault (by decide) hcore (fun hon => ?_) fun hoff => ?_
    · exact ⟨_, execDrw_of_on_screen hfits (not_not.mp hon), rfl, rfl⟩
    · rw [faultInfo, ← spriteOrigin_eq_ofNat]
      exact ⟨_, execDrw_of_off_screen x y hfits hoff, State.raiseFault_faultTaken _ _ _ (by decide)⟩
  · rw [if_pos hfits] at hfault
    exact .of_fault hfault (by decide)
      ⟨_, execDrw_of_past_memory x y hfits, State.raiseFault_faultTaken _ _ _ (by decide)⟩

/-- Settles O47: each instruction of the table by its check, and the others by what they write. -/
theorem faultsAreThoseOfTheTable : Obligations.FaultsAreThoseOfTheTable := by
  refine ⟨rfl, fun i s hcore => show MeetsFaultTable i s from ?_⟩
  cases i
  case ret =>
    refine .of_check _ rfl (by decide) hcore (fun h => ⟨_, execRet_of_ne_zero s h, rfl, rfl⟩) fun h => ?_
    rw [faultInfo, h]
    exact ⟨_, execRet_of_zero s h, State.raiseFault_faultTaken _ _ _ (by decide)⟩
  case call nnn =>
    refine .of_check _ rfl (by decide) hcore (fun h => ⟨_, execCall_of_lt s nnn (by omega), rfl, rfl⟩) fun h => ?_
    rw [faultInfo, h]
    exact ⟨_, execCall_of_not_lt s nnn (by omega), State.raiseFault_faultTaken _ _ _ (by decide)⟩
  case ldBVx x =>
    exact .of_check _ rfl (by decide) hcore (fun h => ⟨_, execLdBVx_of_fits x (by omega), rfl, rfl⟩)
      (exec_addrMem_spec (last := 2) rfl rfl)
  case ldMemVx x =>
    exact .of_check _ rfl (by decide) hcore (fun h => ⟨_, execLdMemVx_of_fits x (by omega), rfl, rfl⟩)
      (exec_addrMem_spec (last := x.val) rfl rfl)
  case ldVxMem x =>
    refine .of_check _ rfl (by decide) hcore (fun h => ?_) (exec_addrMem_spec (last := x.val) rfl rfl)
    obtain ⟨v', -, hexec⟩ := execLdVxMem_of_fits (s := s) x (by omega)
    exact ⟨_, hexec, rfl, rfl⟩
  case skp x =>
    exact .of_check _ rfl (by decide) hcore (fun h => ⟨_, execSkp_of_key x (by omega), rfl, rfl⟩)
      (exec_addrKey_spec rfl rfl)
  case sknp x =>
    exact .of_check _ rfl (by decide) hcore (fun h => ⟨_, execSknp_of_key x (by omega), rfl, rfl⟩)
      (exec_addrKey_spec rfl rfl)
  case drw x y n => exact .drw x y n hcore
  all_goals exact .of_not_mayFault (by simp [mayFault]) hcore

/-! ### A fault raised (R233, R234) -/

/-- A CYCLE that raises a fault does nothing else, the coupled tick included. -/
theorem cycle_faultTaken (hc : cycle s = next t) (hs : s.core ≠ .faulted) (ht : t.core = .faulted) :
    ∃ code op info, FaultTaken s t code op info ∧
      code ∈ [FaultCode.stackOverflow, .stackUnderflow, .addrFetch, .addrMem, .addrFb, .addrKey] ∧
      op = if code = .addrFetch then 0x0000 else s.opcodeAtPc := by
  rcases cycle_cases hc with ⟨hcore, -⟩ | ⟨x, hcore, rfl⟩ | ⟨-, -, rfl⟩ | ⟨hcore, -, i, u, hi, hexec, rfl⟩ |
    ⟨hcore, -, -, rfl⟩
  · exact absurd hcore hs
  · rw [State.cycleTick_core, State.pollKey] at ht
    split at ht
    · exact absurd ht hs
    · cases ht
  · exact ⟨.addrFetch, 0x0000, s.pc, rfl, by simp, rfl⟩
  · rw [State.cycleTick_core] at ht
    rw [State.cycleTick_of_faulted ht]
    obtain ⟨hwait, -⟩ | ⟨code, info, htaken, hcode⟩ := exec_cases i hexec
    · rcases hwait with hkept | ⟨x, hx⟩
      · exact absurd (hkept.symm.trans ht) hs
      · rw [ht] at hx; cases hx
    · obtain ⟨hop, -⟩ := encodeOfDecodeIsTheOpcode _ i hi
      rw [hop, s.fetchOpcode_eq_opcodeAtPc] at htaken
      have hne : code ≠ .addrFetch := by rintro rfl; simp at hcode
      refine ⟨code, _, info, htaken, ?_, (if_neg hne).symm⟩
      simp only [List.mem_cons, List.not_mem_nil, or_false] at hcode ⊢
      tauto
  · rw [State.cycleTick_core] at ht
    exact absurd ht hs

/-- Settles O48: only a CYCLE makes the core Faulted. -/
theorem faultsArePrecise : Obligations.FaultsArePrecise := by
  intro s t h hs ht
  have hnext := s.nextOp_frame
  have hs' : s.nextOp.2.core ≠ .faulted := by rw [hnext]; exact hs
  have hopcode : s.nextOp.2.opcodeAtPc = s.opcodeAtPc := by rw [hnext]; exact State.opcodeAtPc_congr rfl rfl rfl
  rw [step] at h
  rw [← hopcode]
  generalize s.nextOp.2 = s' at h hs' ⊢
  cases hop : s.nextOp.1 with
  | cycle => rw [hop] at h; exact cycle_faultTaken (perform_cycle_iff.mp h).2 hs' ht
  | tick => rw [hop] at h; rw [eq_tick_of_perform h, State.tick_core] at ht; exact absurd ht hs'
  | reset image =>
    rw [hop] at h
    cases h
    rcases s'.hostReset_cases image with ⟨-, hcore, -⟩ | hrejected
    · rw [hcore] at ht; cases ht
    · rw [hrejected] at ht; exact absurd ht hs'
  | setKeys | read | ackRedraw => rw [hop] at h; cases h; exact absurd ht hs'

/-! ### The events of one step (R250) -/

/-- What one step may emit: nothing, a ToneRequest, a DecodeReport, both in this order, or a Fault. -/
def StepEvents (new : List Event) : Prop :=
  new = [] ∨ new = [.toneRequest] ∨ (∃ pc op, new = [.decodeReport pc op]) ∨
    (∃ pc op, new = [.decodeReport pc op, .toneRequest]) ∨ (∃ code pc op info, new = [.fault code pc op info])

/-- Tick() emits nothing or one ToneRequest. -/
theorem State.tick_emits (s : State) :
    ∃ tone, s.tick.events = s.events ++ tone ∧ (tone = [] ∨ tone = [.toneRequest]) := by
  by_cases hcore : s.core = .faulted
  · exact ⟨[], by simp [s.tick_of_faulted hcore], .inl rfl⟩
  · rw [s.tick_events hcore]
    split
    · exact ⟨_, rfl, .inr rfl⟩
    · exact ⟨[], by simp, .inl rfl⟩

theorem State.cycleTick_emits (s : State) :
    ∃ tone, s.cycleTick.events = s.events ++ tone ∧ (tone = [] ∨ tone = [.toneRequest]) := by
  rw [State.cycleTick_eq]
  split
  · exact s.tick_emits
  · exact ⟨[], by simp, .inl rfl⟩

/-- Where nothing is emitted before the tick at the end of a CYCLE, only that tick can emit. -/
theorem cycleTick_emits_of_silent {u : State} (h : u.events = s.events) :
    ∃ new, u.cycleTick.events = s.events ++ new ∧ StepEvents new := by
  obtain ⟨tone, hevents, htone⟩ := u.cycleTick_emits
  exact ⟨tone, h ▸ hevents, htone.imp_right .inl⟩

theorem cycle_emits (hc : cycle s = next t) : ∃ new, t.events = s.events ++ new ∧ StepEvents new := by
  have fault (code op info) : StepEvents [.fault code s.pc op info] := .inr (.inr (.inr (.inr ⟨code, _, op, info, rfl⟩)))
  rcases cycle_cases hc with ⟨-, rfl⟩ | ⟨x, -, rfl⟩ | ⟨-, -, rfl⟩ | ⟨-, -, i, u, -, hexec, rfl⟩ | ⟨-, -, -, rfl⟩
  · exact ⟨[], by simp, .inl rfl⟩
  · exact cycleTick_emits_of_silent (by rw [State.pollKey_frame])
  · exact ⟨_, rfl, fault ..⟩
  · obtain ⟨-, hframe⟩ | ⟨code, info, htaken, -⟩ := exec_cases i hexec
    · exact cycleTick_emits_of_silent (by rw [hframe])
    · rw [State.cycleTick_of_faulted (by rw [htaken]), htaken]
      exact ⟨_, rfl, fault ..⟩
  · obtain ⟨tone, hevents, htone⟩ := (s.reportUnknown s.fetchOpcode).cycleTick_emits
    refine ⟨.decodeReport s.pc s.fetchOpcode :: tone, hevents.trans (List.append_assoc ..), ?_⟩
    rcases htone with rfl | rfl
    · exact .inr (.inr (.inl ⟨_, _, rfl⟩))
    · exact .inr (.inr (.inr (.inl ⟨_, _, rfl⟩)))

/-- Settles O49: only a CYCLE and a Tick() emit. -/
theorem aStepEmitsAtMostTwoEventsInOrder : Obligations.AStepEmitsAtMostTwoEventsInOrder := by
  intro s t h
  show ∃ new, t.events = s.events ++ new ∧ StepEvents new
  have hsilent (ht : t.events = s.events) : ∃ new, t.events = s.events ++ new ∧ StepEvents new :=
    ⟨[], by simp [ht], .inl rfl⟩
  rcases step_cases h with ⟨-, -, hc⟩ | ⟨rest, -, -, hc⟩ | ⟨rest, -, -, rfl⟩ | ⟨_, rest, -, rfl⟩ |
    ⟨_, rest, -, rfl⟩ | ⟨rest, -, rfl⟩ | ⟨image, rest, -, rfl⟩
  · exact cycle_emits hc
  · exact cycle_emits (s := { s with hostOps := rest }) hc
  · obtain ⟨tone, hevents, htone⟩ := State.tick_emits { s with hostOps := rest }
    exact ⟨tone, hevents, htone.imp_right .inl⟩
  · exact hsilent rfl
  · exact hsilent rfl
  · exact hsilent rfl
  · rcases State.hostReset_cases { s with hostOps := rest } image with ⟨-, -, hevents⟩ | hrejected
    · exact hsilent hevents
    · exact hsilent (by rw [hrejected])

/-! ### No operation looks at the rest of the script (R251, R252) -/

/-- `s` with another script. -/
def State.withScript (s : State) (ops : List HostOp) : State := { s with hostOps := ops }

/-- The outcome with its next state mapped. -/
def mapNext (f : State → State) : Host.Outcome State Fault Refusal → Host.Outcome State Fault Refusal
  | .next s => .next (f s)
  | .fault r => .fault r
  | .refused r => .refused r

theorem State.withScript_tick (s : State) (ops : List HostOp) : (s.withScript ops).tick = s.tick.withScript ops := by
  by_cases h : s.core = .faulted
  · rw [s.tick_of_faulted h, (s.withScript ops).tick_of_faulted h]
  · unfold State.tick
    rw [if_neg h]
    exact if_neg h

theorem State.withScript_cycleTick (s : State) (ops : List HostOp) :
    (s.withScript ops).cycleTick = s.cycleTick.withScript ops := by
  rw [State.cycleTick_eq, State.cycleTick_eq, State.withScript_tick]
  exact (apply_ite (State.withScript · ops) ..).symm

theorem State.withScript_recordKey (s : State) (x first : RegIdx) (others : List RegIdx) (ops : List HostOp) :
    (s.withScript ops).recordKey x first others = (s.recordKey x first others).withScript ops := by
  rw [State.recordKey_eq, State.recordKey_eq]
  rfl

theorem State.withScript_pollKey (s : State) (x : RegIdx) (ops : List HostOp) :
    (s.withScript ops).pollKey x = (s.pollKey x).withScript ops := by
  cases hkeys : s.pressedKeys with
  | nil => rw [s.pollKey_of_nil x hkeys, (s.withScript ops).pollKey_of_nil x hkeys]
  | cons first others =>
    rw [s.pollKey_of_cons x hkeys, (s.withScript ops).pollKey_of_cons x hkeys, State.withScript_recordKey]
    rfl

/-- An instruction does the same whatever the script. -/
theorem exec_withScript (i : Instr) (s : State) (ops : List HostOp) :
    exec i (s.withScript ops) = mapNext (State.withScript · ops) (exec i s) := by
  cases i
  case ret | skp | sknp | ldBVx | ldMemVx | ldVxMem =>
    simp only [exec, execRet, execSkp, execSknp, execLdBVx, execLdMemVx, execLdVxMem]
    rw [apply_ite (mapNext _)]
    rfl
  case call =>
    simp only [exec, execCall]
    rw [apply_dite (mapNext _)]
    rfl
  case ldVxK x =>
    cases hkeys : s.pressedKeys with
    | nil => rw [execLdVxK_of_nil s x hkeys]; exact execLdVxK_of_nil (s.withScript ops) x hkeys
    | cons first others =>
      rw [execLdVxK_of_cons s x hkeys, execLdVxK_of_cons (s.withScript ops) x hkeys, State.withScript_recordKey]
      rfl
  case drw x y n =>
    by_cases hfits : rangeFits s.i.toNat n = true
    · by_cases hon : (s.spritePositions x y n).all onScreen = true
      · rw [execDrw_of_on_screen hfits hon]
        exact execDrw_of_on_screen (s := s.withScript ops) hfits hon
      · rw [execDrw_of_off_screen x y hfits hon]
        exact execDrw_of_off_screen (s := s.withScript ops) x y hfits hon
    · rw [execDrw_of_past_memory x y hfits]
      exact execDrw_of_past_memory (s := s.withScript ops) x y hfits
  all_goals rfl

/-- A CYCLE does the same whatever the script. -/
theorem cycle_withScript (hc : cycle s = next t) (ops : List HostOp) :
    cycle (s.withScript ops) = next (t.withScript ops) := by
  rcases cycle_cases hc with ⟨hcore, rfl⟩ | ⟨x, hcore, rfl⟩ | ⟨hcore, hcan, rfl⟩ | ⟨hcore, hcan, i, u, hi, hexec, rfl⟩ |
    ⟨hcore, hcan, ⟨e, he⟩, rfl⟩
  · exact cycle_of_faulted hcore
  · rw [← State.withScript_cycleTick, ← State.withScript_pollKey]
    exact cycle_of_awaitingKey hcore
  · exact cycle_of_fetch_outside hcore hcan
  · rw [← State.withScript_cycleTick]
    refine cycle_of_decode hcore hcan hi ?_
    rw [exec_withScript, hexec]
    rfl
  · rw [← State.withScript_cycleTick]
    exact cycle_of_unknown hcore hcan he

theorem step_of_tick {rest : List HostOp} (hops : s.hostOps = .tick :: rest) (hloaded : s.loadRejected = false) :
    step s = next { s.tick with hostOps := rest } := by
  rw [step_of_op hops]
  exact (if_neg (Bool.eq_false_iff.mp hloaded)).trans (congrArg next (s.withScript_tick rest))

/-- Settles O50, operation by operation. -/
theorem hostOperationsDoWhatTheTableSays : Obligations.HostOperationsDoWhatTheTableSays := by
  intro s rest
  refine ⟨fun keys hops => step_of_op hops, fun asked hops => ?_, fun hops => step_of_op hops,
    fun hops hloaded => step_of_tick hops hloaded, fun hops t hstep => ?_⟩
  · refine ⟨_, step_of_op hops, rfl, rfl, rfl, rfl, List.map_congr_left fun e _ => congrArg (Prod.mk e) ?_⟩
    cases e with
    | key k => exact Bool.cond_eq_ite s.key[k.val] 1 0
    | _ => rfl
  · obtain ⟨hloaded, hc⟩ := perform_cycle_iff.mp hstep
    rw [step_of_op hops]
    exact perform_cycle_iff.mpr ⟨hloaded, cycle_withScript hc rest⟩

/-! ### Ticks (R243, R244, R245) -/

theorem State.tick_events_toNat (hcore : s.core ≠ .faulted) :
    s.tick.events = if s.st.toNat = 1 then s.events ++ [.toneRequest] else s.events := by
  rw [s.tick_events hcore]
  exact if_congr BitVec.toNat_inj.symm rfl rfl

/-- Settles O42. -/
theorem tickCountsBothTimersDown : Obligations.TickCountsBothTimersDown := by
  intro s rest hops hloaded
  have hstep := step_of_tick hops hloaded
  refine ⟨fun hcore => ?_, fun hcore => ⟨_, hstep, s.toNat_tick_dt hcore, s.toNat_tick_st hcore,
    State.tick_events_toNat hcore, ?_⟩⟩
  · rw [hstep, s.tick_of_faulted hcore]
  · rw [s.tick_frame]

/-- `k` scripted TICKs count both timers down by `k`, to 0 at the least, and ask for a tone if ST reaches 0 on the way. -/
theorem ticks_count_down (k : Nat) (rest : List HostOp) (hcore : s.core = .fetching) (hloaded : s.loadRejected = false)
    (hops : s.hostOps = List.replicate k .tick ++ rest) :
    ∃ u, stepsThrough (fun q => q.core = .fetching) k s u ∧ u.hostOps = rest ∧
      u.dt.toNat = s.dt.toNat - k ∧ u.st.toNat = s.st.toNat - k ∧
      u.events = s.events ++ (if 1 ≤ s.st.toNat ∧ s.st.toNat ≤ k then [.toneRequest] else []) := by
  induction k generalizing s with
  | zero =>
    rw [if_neg (by omega), List.append_nil]
    exact ⟨s, rfl, hops, rfl, rfl, rfl⟩
  | succ k ih =>
    have hrun : s.core ≠ .faulted := by simp [hcore]
    have hstep := step_of_tick (rest := List.replicate k .tick ++ rest) hops hloaded
    obtain ⟨u, hsteps, huops, hdt, hst, hevents⟩ := ih (s := { s.tick with hostOps := List.replicate k .tick ++ rest })
      (s.tick_core.trans hcore) (by rw [s.tick_frame]; exact hloaded) rfl
    dsimp only at hdt hst hevents
    rw [s.toNat_tick_dt hrun] at hdt
    rw [s.toNat_tick_st hrun] at hst hevents
    rw [State.tick_events_toNat hrun] at hevents
    refine ⟨u, ⟨_, hstep, s.tick_core.trans hcore, hsteps⟩, huops, by omega, by omega, hevents.trans ?_⟩
    by_cases hone : s.st.toNat = 1
    · simp [hone]
    · have hsame : (1 ≤ s.st.toNat - 1 ∧ s.st.toNat - 1 ≤ k) ↔ (1 ≤ s.st.toNat ∧ s.st.toNat ≤ k + 1) := by omega
      simp only [if_neg hone, hsame]

/-- Settles O43. -/
theorem delayTimerReachesZeroOnItsLastTick : Obligations.DelayTimerReachesZeroOnItsLastTick := by
  intro x k rest s t hexec hcore hloaded hops
  cases hexec
  obtain ⟨u, hsteps, huops, hdt, -⟩ := ticks_count_down (s := { s with dt := s.readV x }.advance) k rest hcore hloaded hops
  exact ⟨u, hsteps, huops, hdt⟩

/-- Settles O44. -/
theorem soundTimerAsksForOneTone : Obligations.SoundTimerAsksForOneTone := by
  intro x k rest s t hexec hcore hloaded hops n
  cases hexec
  obtain ⟨u, hsteps, huops, -, hst, hevents⟩ :=
    ticks_count_down (s := { s with st := s.readV x }.advance) k rest hcore hloaded hops
  exact ⟨u, hsteps, huops, hst, hevents⟩

end Machine
end Sys2Proof

/-! # 70_reset_and_hazards.md: RESET, the coupled delay and the tone

What memory reads after RESET first. Of the two statements on FX15 and then FX07, R280's wording fails where the rules of
the instructions hold. For the tone: what a step emits ends with it, and only a tick with ST = 1 emits it. -/

namespace Sys2Proof
namespace Machine

open Host.Outcome (next)

variable {s t u : State} {before new : List Event}

/-! ### RESET (R270, R273, R274) -/

/-- After RESET an address of the image reads the image, and every other one what the font and the zeros give. -/
theorem State.readByte_resetCore (s : State) (image : List Byte) (a : Nat) :
    (s.resetCore image).readByte a =
      if h : progBase ≤ a ∧ a - progBase < image.length then image[a - progBase] else unlisted s.params.font a :=
  Memory.read_store ..

theorem State.readByte_resetCore_image (s : State) (image : List Byte) (k : Nat) (hk : k < image.length) :
    (s.resetCore image).readByte (progBase + k) = image[k] := by
  have hoffset : progBase + k - progBase = k := Nat.add_sub_cancel_left ..
  rw [State.readByte_resetCore, dif_pos ⟨Nat.le_add_right .., hoffset.symm ▸ hk⟩]
  simp only [hoffset]

theorem State.readByte_resetCore_outside (s : State) (image : List Byte) (a : Nat)
    (ha : a < progBase ∨ progBase + image.length ≤ a) : (s.resetCore image).readByte a = unlisted s.params.font a := by
  rw [State.readByte_resetCore, dif_neg (by omega)]

/-- Settles O52: memory region by region; the other elements are those of `State.reset`. -/
theorem resetSetsEveryStateElement : Obligations.ResetSetsEveryStateElement := by
  intro s image rest hops hlength
  have hstep : step s = next ({ s with hostOps := rest }.hostReset image) := step_of_op hops
  rw [State.hostReset_of_fits (decide_eq_true hlength)] at hstep
  have hread := State.readByte_resetCore_outside { s with hostOps := rest } image
  obtain ⟨-, -, hv, -, -, -, hstack, -, -, hfb, -, hkey, -⟩ := resetStateIsTheSpecs
  refine ⟨_, hstep, fun d r hd hr => ?font, fun a ha ha' => ?below, State.readByte_resetCore_image _ image,
    fun a ha _ => ?above, hv, rfl, rfl, rfl, hstack, rfl, rfl, hfb, rfl, hkey, rfl, rfl, rfl, rfl, rfl, rfl, rfl, rfl,
    rfl⟩
  case font => exact (hread _ (.inl (by simp only [progBase]; omega))).trans (unlisted_glyph _ d r hd hr)
  case below => exact (hread a (.inl (Nat.lt_succ_of_le ha'))).trans (unlisted_above_font _ a ha)
  case above => exact (hread a (.inr ha)).trans (unlisted_above_font _ a (by omega))

/-- Settles O53. -/
theorem oversizedImageIsRejectedWhole : Obligations.OversizedImageIsRejectedWhole := by
  intro s image rest hops hlength
  have hstep : step s = next ({ s with hostOps := rest }.hostReset image) := step_of_op hops
  rw [State.hostReset_of_not_fits (decide_eq_false (Nat.not_le_of_lt hlength))] at hstep
  exact ⟨_, hstep, rfl, rfl⟩

/-! ### R280's wording of the coupled delay -/

/-- A coupled machine about to run F115 and then F207, with V1 = 3. -/
def delayOfThree : State :=
  ({ State.reset with params := { Params.default with coupling := .coupled } }.writeV 1 3).storeBytes 0x200
    [0xF1, 0x15, 0xF2, 0x07]

/-- Refutes O46: from `delayOfThree` FX07 reads 2, one less than V1, where R280's wording has 1. -/
theorem not_coupledDelayAsTheHazardRuleWordsIt : ¬ Obligations.CoupledDelayAsTheHazardRuleWordsIt := by
  intro h
  have hcycles : delayOfThree.cycles := ⟨rfl, rfl⟩
  have hsets : decodeWord delayOfThree.opcodeAtPc = .ok (.ldDtVx 1) := by decide
  have hreads : decodeWord { delayOfThree with pc := delayOfThree.pc + 2 }.opcodeAtPc = .ok (.ldVxDt 2) := by decide
  have hthree : (delayOfThree.readV 1).toNat = 3 := by decide
  obtain ⟨t, u, hfirst, hsecond, hread, -⟩ :=
    coupledDelayReadsOneLess 1 2 delayOfThree hcycles rfl rfl (by decide) hsets hreads
  obtain ⟨hworded, -⟩ :=
    h 1 2 delayOfThree t u hcycles rfl rfl (by decide) hsets hreads (by omega) hfirst hsecond
  have htwoLess := hworded (by omega)
  omega

/-! ### The tone (R245, R283) -/

/-- Of what one step may emit, a ToneRequest is the last, and there is one at most. -/
theorem StepEvents.toneRequest_last (h : StepEvents new) :
    new.count .toneRequest ≤ 1 ∧ (.toneRequest ∈ new → new.getLast? = some .toneRequest) := by
  rcases h with rfl | rfl | ⟨pc, op, rfl⟩ | ⟨pc, op, rfl⟩ | ⟨code, pc, op, info, rfl⟩ <;> simp

/-- Where a ToneRequest is among the new events and not among those of a state on the way, events came after that state. -/
theorem events_ne_of_toneRequest (hbefore : u.events = s.events ++ before) (hquiet : .toneRequest ∉ before)
    (hevents : t.events = s.events ++ new) (htone : .toneRequest ∈ new) : t.events ≠ u.events := by
  intro hsame
  rw [hevents, hbefore] at hsame
  exact hquiet (List.append_cancel_left hsame ▸ htone)

/-- Tick() emits only where ST goes from 1 to 0, in a core that is not Faulted. -/
theorem State.st_of_tick_emits (h : s.tick.events ≠ s.events) : s.core ≠ .faulted ∧ s.st = 1 ∧ s.tick.st = 0 := by
  have hcore : s.core ≠ .faulted := fun hcore => h (by rw [s.tick_of_faulted hcore])
  have hst : s.st = 1 := by
    by_contra hst
    exact h ((s.tick_events hcore).trans (if_neg hst))
  exact ⟨hcore, hst, BitVec.eq_of_toNat_eq (by rw [s.toNat_tick_st hcore, hst]; rfl)⟩

/-- The tick at the end of a CYCLE, the same, and only in coupled mode. -/
theorem State.st_of_cycleTick_emits (h : s.cycleTick.events ≠ s.events) :
    s.params.coupling = .coupled ∧ s.cycleTick.core ≠ .faulted ∧ s.st = 1 ∧ s.cycleTick.st = 0 := by
  rw [State.cycleTick_core]
  cases hmode : s.params.coupling with
  | decoupled => exact absurd (by rw [State.cycleTick_of_decoupled hmode]) h
  | coupled => rw [State.cycleTick_of_coupled hmode] at h ⊢; exact ⟨rfl, State.st_of_tick_emits h⟩

/-- An instruction asks for no tone: it emits nothing, or a Fault. -/
theorem exec_emits_no_toneRequest {i : Instr} (h : exec i s = next t) :
    ∃ before, t.events = s.events ++ before ∧ .toneRequest ∉ before := by
  obtain ⟨-, hframe⟩ | ⟨code, info, htaken, -⟩ := exec_cases i h
  · exact ⟨[], by rw [hframe, List.append_nil], List.not_mem_nil⟩
  · exact ⟨_, by rw [htaken], by simp⟩

/-- ST is 1 after an instruction where it was before, or where FX18 writes 1. -/
theorem exec_st_eq_one {i : Instr} (h : exec i s = next t) (hst : t.st = 1) :
    s.st = 1 ∨ ∃ x, i = .ldStVx x ∧ s.readV x = 1 := by
  by_cases hkept : t.st = s.st
  · exact .inl (hkept ▸ hst)
  · obtain ⟨-, -, -, -, hwrites, -⟩ := (exec_effect i h).writers
    obtain ⟨x, rfl⟩ := hwrites hkept
    cases h
    exact .inr ⟨x, rfl, hst⟩

/-- A CYCLE asks for a tone only by the tick at its end, with ST = 1 before the CYCLE or by its FX18. -/
theorem cycle_toneRequest (hc : cycle s = next t) (hevents : t.events = s.events ++ new) (htone : .toneRequest ∈ new) :
    t.st = 0 ∧ s.core ≠ .faulted ∧ t.core ≠ .faulted ∧ s.params.coupling = .coupled ∧
      (s.st = 1 ∨ ∃ x, decodeWord s.opcodeAtPc = .ok (.ldStVx x) ∧ s.readV x = 1) := by
  rcases cycle_cases hc with ⟨-, rfl⟩ | ⟨x, hcore, rfl⟩ | ⟨-, -, rfl⟩ | ⟨hcore, -, i, u, hi, hexec, rfl⟩ |
    ⟨hcore, -, -, rfl⟩
  · exact absurd rfl (events_ne_of_toneRequest (List.append_nil _).symm List.not_mem_nil hevents htone)
  · have hpoll : (s.pollKey x).events = s.events ++ [] := by rw [State.pollKey_frame, List.append_nil]
    obtain ⟨hmode, hrun, hst, hzero⟩ :=
      State.st_of_cycleTick_emits (events_ne_of_toneRequest hpoll List.not_mem_nil hevents htone)
    rw [State.pollKey_frame] at hst
    exact ⟨hzero, by simp [hcore], hrun, State.pollKey_params s x ▸ hmode, .inl hst⟩
  · have hfault : (s.raiseFault .addrFetch 0x0000 s.pc).events = s.events ++ [.fault .addrFetch s.pc 0x0000 s.pc] := rfl
    exact absurd rfl (events_ne_of_toneRequest hfault (by simp) hevents htone)
  · obtain ⟨before, hbefore, hquiet⟩ := exec_emits_no_toneRequest hexec
    obtain ⟨hmode, hrun, hst, hzero⟩ :=
      State.st_of_cycleTick_emits (events_ne_of_toneRequest hbefore hquiet hevents htone)
    obtain ⟨-, hparams, -⟩ := exec_host_frame hexec
    rw [s.fetchOpcode_eq_opcodeAtPc] at hi
    refine ⟨hzero, by simp [hcore], hrun, hparams ▸ hmode, ?_⟩
    exact (exec_st_eq_one hexec hst).imp_right fun ⟨x, hx, hone⟩ => ⟨x, hx ▸ hi, hone⟩
  · have hreport : (s.reportUnknown s.fetchOpcode).events = s.events ++ [.decodeReport s.pc s.fetchOpcode] := rfl
    obtain ⟨hmode, hrun, hst, hzero⟩ :=
      State.st_of_cycleTick_emits (events_ne_of_toneRequest hreport (by simp) hevents htone)
    exact ⟨hzero, by simp [hcore], hrun, hmode, .inl hst⟩

/-- Settles O60: a CYCLE and a TICK ask for a tone by their tick, and no other operation emits. -/
theorem theOnlySoundIsAOneShotToneRequest : Obligations.TheOnlySoundIsAOneShotToneRequest := by
  intro s t h
  obtain ⟨new, hevents, hnew⟩ : ∃ new, t.events = s.events ++ new ∧ StepEvents new :=
    aStepEmitsAtMostTwoEventsInOrder s t h
  obtain ⟨hcount, hlast⟩ := hnew.toneRequest_last
  refine ⟨new, hevents, hcount, fun htone => ⟨hlast htone, ?_⟩⟩
  have hemits : t.events ≠ s.events :=
    events_ne_of_toneRequest (List.append_nil _).symm List.not_mem_nil hevents htone
  rcases step_cases h with ⟨hops, -, hc⟩ | ⟨rest, hops, -, hc⟩ | ⟨rest, hops, -, rfl⟩ | ⟨_, rest, -, rfl⟩ |
    ⟨_, rest, -, rfl⟩ | ⟨rest, -, rfl⟩ | ⟨image, rest, -, rfl⟩
  · obtain ⟨hzero, hcore, hcore', hmode, hcause⟩ := cycle_toneRequest hc hevents htone
    exact ⟨hzero, hcore, hcore', .inr ⟨by simp [State.nextOp, hops], hmode, hcause⟩⟩
  · obtain ⟨hzero, hcore, hcore', hmode, hcause⟩ := cycle_toneRequest hc hevents htone
    exact ⟨hzero, hcore, hcore', .inr ⟨by simp [State.nextOp, hops], hmode, hcause⟩⟩
  · obtain ⟨hcore, hst, hzero⟩ := State.st_of_tick_emits (s := { s with hostOps := rest }) hemits
    exact ⟨hzero, hcore, by rwa [State.tick_core], .inl ⟨by simp [State.nextOp, hops], hst⟩⟩
  · exact absurd rfl hemits
  · exact absurd rfl hemits
  · exact absurd rfl hemits
  · rcases State.hostReset_cases { s with hostOps := rest } image with ⟨-, -, hsilent⟩ | hrejected
    · exact absurd hsilent hemits
    · exact absurd (by rw [hrejected]) hemits

end Machine
end Sys2Proof

/-! # 93_implementation_defined.md: the machine after a load fault

U15 leaves open what CYCLE and TICK do once RESET has rejected an image; the model refuses both (log entry 9). -/

namespace Sys2Proof
namespace Machine

variable {s : State}

/-- The two operations that run the machine are refused after a load fault; the script plays no part. -/
theorem perform_refused_of_loadRejected {op : HostOp} (hloaded : s.loadRejected = true) (hop : op = .cycle ∨ op = .tick) :
    perform op s = .refused .afterLoadFault := by
  obtain rfl | rfl := hop <;> exact if_pos hloaded

theorem State.nextOp_loadRejected (s : State) : s.nextOp.2.loadRejected = s.loadRejected := by
  rw [State.nextOp_frame]

/-- Settles O54: an empty script and one that begins with CYCLE or TICK have one of these as the next operation. -/
theorem cycleAndTickAreRefusedAfterALoadFault : Obligations.CycleAndTickAreRefusedAfterALoadFault := by
  intro s hloaded hops
  refine perform_refused_of_loadRejected (s.nextOp_loadRejected.trans hloaded) ?_
  obtain hops | ⟨rest, hops | hops⟩ := hops
  · exact .inl (by rw [State.nextOp, hops])
  · exact .inl (by rw [State.nextOp, hops])
  · exact .inr (by rw [State.nextOp, hops])

end Machine
end Sys2Proof
